-- ==== Sys2Proof/Word.lean ====
section
/-! DEFINITION. The widths of the core's values (00_scope R12): bytes, 16-bit words, nibbles and 12-bit addresses. -/

namespace Sys2Proof

/-- An 8-bit value: a V register, a timer, a memory byte, NN, the random byte (R12). -/
abbrev Byte := BitVec 8

/-- A 16-bit value: PC, I, a stack entry, an opcode (R12). -/
abbrev Word := BitVec 16

/-- A 4-bit opcode field: X, Y, N or a selector (R12). X and Y number the V registers (R303). -/
abbrev Nibble := BitVec 4

/-- The 12-bit opcode field NNN (R12). -/
abbrev Addr12 := BitVec 12

end Sys2Proof
end

