-- ==== Sys2Proof/Syntax.lean ====
section
/-! DEFINITION. The 34 instructions (30_encoding R305 to R309, R312, R315), one constructor per row of spec/opcode_table.json. An argument
`ign` (and `y` of the two shifts) holds the opcode bits that the decoder does not examine (R310): no effect depends on them, but FAULT_OP
shows the word as it was fetched (R119), so they are kept (log entry 4). -/

namespace Sys2Proof

inductive Instr where
  /-- `0nn0`, standard word 00E0 (R401); `ign` = op[11:4]. -/
  | cls (ign : Byte)
  /-- `0nnE`, standard word 00EE (R451); `ign` = op[11:4]. -/
  | ret (ign : Byte)
  /-- `1NNN` (R452). -/
  | jp (nnn : Addr12)
  /-- `2NNN` (R453). -/
  | call (nnn : Addr12)
  /-- `3XNN` (R454). -/
  | seImm (x : Nibble) (nn : Byte)
  /-- `4XNN` (R455). -/
  | sneImm (x : Nibble) (nn : Byte)
  /-- `5XYn`, standard word 5XY0 (R456); `ign` = op[3:0]. -/
  | seReg (x y ign : Nibble)
  /-- `6XNN` (R500). -/
  | ldImm (x : Nibble) (nn : Byte)
  /-- `7XNN` (R501). -/
  | addImm (x : Nibble) (nn : Byte)
  /-- `8XY0` (R552). -/
  | mov (x y : Nibble)
  /-- `8XY1` (R553). -/
  | or (x y : Nibble)
  /-- `8XY2` (R554). -/
  | and (x y : Nibble)
  /-- `8XY3` (R555). -/
  | xor (x y : Nibble)
  /-- `8XY4` (R556). -/
  | add (x y : Nibble)
  /-- `8XY5` (R557). -/
  | sub (x y : Nibble)
  /-- `8XY6` (R558); `y` is not read. -/
  | shr (x y : Nibble)
  /-- `8XY7` (R559). -/
  | subn (x y : Nibble)
  /-- `8XYE` (R560); `y` is not read. -/
  | shl (x y : Nibble)
  /-- `9XYn`, standard word 9XY0 (R457); `ign` = op[3:0]. -/
  | sneReg (x y ign : Nibble)
  /-- `ANNN` (R502). -/
  | ldI (nnn : Addr12)
  /-- `BNNN` (R458). -/
  | jpV0 (nnn : Addr12)
  /-- `CXNN` (R503). -/
  | rnd (x : Nibble) (nn : Byte)
  /-- `DXYN` (R402). -/
  | drw (x y n : Nibble)
  /-- `EXnE`, standard word EX9E (R601); `ign` = op[7:4]. -/
  | skp (x ign : Nibble)
  /-- `EXn1`, standard word EXA1 (R602); `ign` = op[7:4]. -/
  | sknp (x ign : Nibble)
  /-- `FX07` (R603). -/
  | ldVxDt (x : Nibble)
  /-- `FX0A` (R604). -/
  | ldVxK (x : Nibble)
  /-- `FX15` (R605). -/
  | ldDtVx (x : Nibble)
  /-- `FX18` (R606). -/
  | ldStVx (x : Nibble)
  /-- `FX1E` (R650). -/
  | addIVx (x : Nibble)
  /-- `FX29` (R651). -/
  | ldFVx (x : Nibble)
  /-- `FX33` (R652). -/
  | ldBVx (x : Nibble)
  /-- `FX55` (R653). -/
  | ldMemVx (x : Nibble)
  /-- `FX65` (R654). -/
  | ldVxMem (x : Nibble)
  deriving DecidableEq, Repr

end Sys2Proof
end

