-- ==== Sys2Proof/WellFormed.lean ====
section
/-! DEFINITION. The checks on an instruction. The types of Instr's fields bound every operand, so every term of Instr stands for exactly
one legal word (R312) and none is refused by the machine. What can be checked of a term is the assembler's form (30_encoding R316): the
bits the decoder ignores (R310) hold the values of the standard word. The machine does not ask for it: it runs every word of R310. -/

namespace Sys2Proof

/-- The instruction is one that an assembler of R316 emits: op[11:4] = 0x0E in 00E0 and 00EE, op[3:0] = 0 in 5XY0 and 9XY0,
op[7:4] = 0x9 in EX9E and 0xA in EXA1, Y = 0 in 8XY6 and 8XYE. -/
def Instr.wellFormed : Instr → Bool
  | .cls ign => ign == 0x0E#8
  | .ret ign => ign == 0x0E#8
  | .seReg _ _ ign => ign == 0#4
  | .sneReg _ _ ign => ign == 0#4
  | .shr _ y => y == 0#4
  | .shl _ y => y == 0#4
  | .skp _ ign => ign == 0x9#4
  | .sknp _ ign => ign == 0xA#4
  | .jp _ => true
  | .call _ => true
  | .seImm _ _ => true
  | .sneImm _ _ => true
  | .ldImm _ _ => true
  | .addImm _ _ => true
  | .mov _ _ => true
  | .or _ _ => true
  | .and _ _ => true
  | .xor _ _ => true
  | .add _ _ => true
  | .sub _ _ => true
  | .subn _ _ => true
  | .ldI _ => true
  | .jpV0 _ => true
  | .rnd _ _ => true
  | .drw _ _ _ => true
  | .ldVxDt _ => true
  | .ldVxK _ => true
  | .ldDtVx _ => true
  | .ldStVx _ => true
  | .addIVx _ => true
  | .ldFVx _ => true
  | .ldBVx _ => true
  | .ldMemVx _ => true
  | .ldVxMem _ => true

end Sys2Proof
end

