-- ==== Sys2Proof/Decode.lean ====
section
/-! DEFINITION. Decode and encode (30_encoding R300 to R313). Decode follows R304: the primary nibble, then in families 0x0, 0x8, 0xE the
low nibble and in family 0xF the low byte; every other word is rejected under the name of its family's table (R311). The selector values
are the tables of R305 to R309 (general knowledge of the spec, log entry 5). -/

namespace Sys2Proof

/-! Fields of an opcode (R301). -/

/-- The primary selector P = op[15:12]. -/
def opP (w : Word) : Nibble := w.extractLsb' 12 4
/-- X = op[11:8]. -/
def opX (w : Word) : Nibble := w.extractLsb' 8 4
/-- Y = op[7:4]. -/
def opY (w : Word) : Nibble := w.extractLsb' 4 4
/-- N = op[3:0]. -/
def opN (w : Word) : Nibble := w.extractLsb' 0 4
/-- NN = op[7:0]. -/
def opNN (w : Word) : Byte := w.extractLsb' 0 8
/-- NNN = op[11:0]. -/
def opNNN (w : Word) : Addr12 := w.extractLsb' 0 12
/-- op[11:4], the bits that family 0x0 does not examine (R306, R310). -/
def opMid (w : Word) : Byte := w.extractLsb' 4 8

/-- Why bytes are no instruction. -/
inductive DecodeError where
  /-- Fewer than two bytes: no whole opcode (R300). Only `decodeBytes` answers it; a step always fetches two bytes (R205). -/
  | truncated
  /-- Family 0x0, low nibble neither 0x0 nor 0xE (R306, R311). -/
  | unmapped0
  /-- Family 0x8, low nibble in 0x8..0xD or 0xF (R307, R311). -/
  | unmapped8
  /-- Family 0xE, low nibble neither 0x1 nor 0xE (R308, R311). -/
  | unmappedE
  /-- Family 0xF, low byte none of the nine of R309 (R311). -/
  | unmappedF
  deriving DecidableEq, Repr

/-- table0, indexed by op[3:0] (R306). -/
def decode0 (w : Word) : Except DecodeError Instr :=
  match opN w with
  | 0x0#4 => .ok (.cls (opMid w))
  | 0xE#4 => .ok (.ret (opMid w))
  | _ => .error .unmapped0

/-- table8, indexed by op[3:0] (R307). -/
def decode8 (w : Word) : Except DecodeError Instr :=
  match opN w with
  | 0x0#4 => .ok (.mov (opX w) (opY w))
  | 0x1#4 => .ok (.or (opX w) (opY w))
  | 0x2#4 => .ok (.and (opX w) (opY w))
  | 0x3#4 => .ok (.xor (opX w) (opY w))
  | 0x4#4 => .ok (.add (opX w) (opY w))
  | 0x5#4 => .ok (.sub (opX w) (opY w))
  | 0x6#4 => .ok (.shr (opX w) (opY w))
  | 0x7#4 => .ok (.subn (opX w) (opY w))
  | 0xE#4 => .ok (.shl (opX w) (opY w))
  | _ => .error .unmapped8

/-- tableE, indexed by op[3:0] (R308). -/
def decodeE (w : Word) : Except DecodeError Instr :=
  match opN w with
  | 0xE#4 => .ok (.skp (opX w) (opY w))
  | 0x1#4 => .ok (.sknp (opX w) (opY w))
  | _ => .error .unmappedE

/-- tableF, indexed by op[7:0] (R309). -/
def decodeF (w : Word) : Except DecodeError Instr :=
  match opNN w with
  | 0x07#8 => .ok (.ldVxDt (opX w))
  | 0x0A#8 => .ok (.ldVxK (opX w))
  | 0x15#8 => .ok (.ldDtVx (opX w))
  | 0x18#8 => .ok (.ldStVx (opX w))
  | 0x1E#8 => .ok (.addIVx (opX w))
  | 0x29#8 => .ok (.ldFVx (opX w))
  | 0x33#8 => .ok (.ldBVx (opX w))
  | 0x55#8 => .ok (.ldMemVx (opX w))
  | 0x65#8 => .ok (.ldVxMem (opX w))
  | _ => .error .unmappedF

/-- The decoder (R304, R305). The last arm is P = 0xF, the one value the others leave. -/
def decode (w : Word) : Except DecodeError Instr :=
  match opP w with
  | 0x0#4 => decode0 w
  | 0x1#4 => .ok (.jp (opNNN w))
  | 0x2#4 => .ok (.call (opNNN w))
  | 0x3#4 => .ok (.seImm (opX w) (opNN w))
  | 0x4#4 => .ok (.sneImm (opX w) (opNN w))
  | 0x5#4 => .ok (.seReg (opX w) (opY w) (opN w))
  | 0x6#4 => .ok (.ldImm (opX w) (opNN w))
  | 0x7#4 => .ok (.addImm (opX w) (opNN w))
  | 0x8#4 => decode8 w
  | 0x9#4 => .ok (.sneReg (opX w) (opY w) (opN w))
  | 0xA#4 => .ok (.ldI (opNNN w))
  | 0xB#4 => .ok (.jpV0 (opNNN w))
  | 0xC#4 => .ok (.rnd (opX w) (opNN w))
  | 0xD#4 => .ok (.drw (opX w) (opY w) (opN w))
  | 0xE#4 => decodeE w
  | _ => decodeF w

/-- Two bytes as an opcode, the first the high byte (R205, R206). -/
def wordOfBytes (hi lo : Byte) : Word := hi ++ lo

/-- The high byte of an opcode, at the lower address (R206). -/
def highByte (w : Word) : Byte := w.extractLsb' 8 8
/-- The low byte of an opcode, at the higher address (R206). -/
def lowByte (w : Word) : Byte := w.extractLsb' 0 8

/-- The decoder on a list of bytes: the instruction and the bytes after it (R300: every instruction is two bytes). -/
def decodeBytes : List Byte → Except DecodeError (Instr × List Byte)
  | hi :: lo :: rest =>
    match decode (wordOfBytes hi lo) with
    | .ok i => .ok (i, rest)
    | .error e => .error e
  | _ => .error .truncated

/-! The encoder, from the formats of R303 and the same tables. -/

/-- Formats F_XY, F_XYS, F_XYN, F_XS: P, X, Y, N. -/
def wordXYN (p x y n : Nibble) : Word := p ++ x ++ y ++ n
/-- Formats F_XNN and F_XSS: P, X, NN. -/
def wordXNN (p x : Nibble) (nn : Byte) : Word := p ++ x ++ nn
/-- Format F_NNN: P, NNN. -/
def wordNNN (p : Nibble) (nnn : Addr12) : Word := p ++ nnn
/-- Format F_S: P, op[11:4], secondary selector. -/
def wordS (p : Nibble) (mid : Byte) (n : Nibble) : Word := p ++ mid ++ n

/-- The word of an instruction. -/
def encode : Instr → Word
  | .cls ign => wordS 0x0#4 ign 0x0#4
  | .ret ign => wordS 0x0#4 ign 0xE#4
  | .jp nnn => wordNNN 0x1#4 nnn
  | .call nnn => wordNNN 0x2#4 nnn
  | .seImm x nn => wordXNN 0x3#4 x nn
  | .sneImm x nn => wordXNN 0x4#4 x nn
  | .seReg x y ign => wordXYN 0x5#4 x y ign
  | .ldImm x nn => wordXNN 0x6#4 x nn
  | .addImm x nn => wordXNN 0x7#4 x nn
  | .mov x y => wordXYN 0x8#4 x y 0x0#4
  | .or x y => wordXYN 0x8#4 x y 0x1#4
  | .and x y => wordXYN 0x8#4 x y 0x2#4
  | .xor x y => wordXYN 0x8#4 x y 0x3#4
  | .add x y => wordXYN 0x8#4 x y 0x4#4
  | .sub x y => wordXYN 0x8#4 x y 0x5#4
  | .shr x y => wordXYN 0x8#4 x y 0x6#4
  | .subn x y => wordXYN 0x8#4 x y 0x7#4
  | .shl x y => wordXYN 0x8#4 x y 0xE#4
  | .sneReg x y ign => wordXYN 0x9#4 x y ign
  | .ldI nnn => wordNNN 0xA#4 nnn
  | .jpV0 nnn => wordNNN 0xB#4 nnn
  | .rnd x nn => wordXNN 0xC#4 x nn
  | .drw x y n => wordXYN 0xD#4 x y n
  | .skp x ign => wordXYN 0xE#4 x ign 0xE#4
  | .sknp x ign => wordXYN 0xE#4 x ign 0x1#4
  | .ldVxDt x => wordXNN 0xF#4 x 0x07#8
  | .ldVxK x => wordXNN 0xF#4 x 0x0A#8
  | .ldDtVx x => wordXNN 0xF#4 x 0x15#8
  | .ldStVx x => wordXNN 0xF#4 x 0x18#8
  | .addIVx x => wordXNN 0xF#4 x 0x1E#8
  | .ldFVx x => wordXNN 0xF#4 x 0x29#8
  | .ldBVx x => wordXNN 0xF#4 x 0x33#8
  | .ldMemVx x => wordXNN 0xF#4 x 0x55#8
  | .ldVxMem x => wordXNN 0xF#4 x 0x65#8

/-- The bytes of an instruction as memory holds them, lower address first (R206). -/
def encodeBytes (i : Instr) : List Byte := [highByte (encode i), lowByte (encode i)]

/-- The 16-bit word that a table word of `nbits` bits stands for: the bits above `nbits` are 0. -/
def tableWord (nbits w : Nat) : Word := BitVec.ofNat 16 (w % 2 ^ nbits)

/-- The host's question: the instruction the decoder reads from a word numbered as spec/opcode_table.json numbers it, laid out big-endian. -/
def decodeTableWord (nbits w : Nat) : Option Instr :=
  match decodeBytes [highByte (tableWord nbits w), lowByte (tableWord nbits w)] with
  | .ok (i, _) => some i
  | .error _ => none

end Sys2Proof
end

