-- ==== Sys2Proof/Config.lean ====
section
/-! DEFINITION. What an implementation fixes (the parameters of 00_scope R9) and the free values (no body: nothing can be proved of
their values). -/

namespace Sys2Proof

/-- Parameter ADDR_MODE (R9, R203): what an address above 0xFFF does. -/
inductive AddrMode where
  /-- The access raises AddressOutOfRange. -/
  | fault
  /-- The address is reduced modulo 4096. -/
  | wrap12
  deriving DecidableEq, Repr

/-- Parameter VF_ALIAS (R9, R562): the cases of 8XY5, 8XY6, 8XY7, 8XYE with VF as operand or destination. -/
inductive VfAlias where
  /-- Operands read once at the start, VF written first, V[X] second (R551). -/
  | latched
  /-- In the unsettled cases V[X] and VF are any bytes (R562). -/
  | draw
  deriving DecidableEq, Repr

/-- The parameters the core takes as arguments (R9). RND is not here: it is an input of each step. -/
structure Params where
  /-- FONT, the 80 bytes at 0x050..0x09F after reset (R115). -/
  font : Vector Byte 80
  /-- ADDR_MODE (R203). -/
  addrMode : AddrMode
  /-- VF_ALIAS (R562). -/
  vfAlias : VfAlias
  /-- LOAD_FAIL_RESETS (R804). -/
  loadFailResets : Bool
  deriving DecidableEq, Repr

/-- FREE VALUE (log entry 2): the random byte of step number `n` where the host names none; any byte (R140, R503). -/
opaque Config.freeRnd : Nat → Byte

/-- FREE VALUE (log entry 3): what V[X] is left with in step number `n` where R562 leaves it open; any byte. -/
opaque Config.freeVx : Nat → Byte

/-- FREE VALUE (log entry 3): what VF is left with in step number `n` where R562 leaves it open and X is not F; any byte. -/
opaque Config.freeVf : Nat → Byte

end Sys2Proof
end

