-- ==== Sys2Proof/Machine/Params.lean ====
section
/-! DEFINITION. The default of each parameter of 00_scope R9, as 92_eei_decisions chooses it (D6, D14, D18, D21; log entry 1). -/

namespace Sys2Proof.Machine

/-- The bytes of the default font, glyphs 0 to 7 (10_state R115; general knowledge G2, log entry 5). -/
def fontLow : List Byte :=
  [0xF0, 0x90, 0x90, 0x90, 0xF0] ++ [0x20, 0x60, 0x20, 0x20, 0x70] ++
  [0xF0, 0x10, 0xF0, 0x80, 0xF0] ++ [0xF0, 0x10, 0xF0, 0x10, 0xF0] ++
  [0x90, 0x90, 0xF0, 0x10, 0x10] ++ [0xF0, 0x80, 0xF0, 0x10, 0xF0] ++
  [0xF0, 0x80, 0xF0, 0x90, 0xF0] ++ [0xF0, 0x10, 0x20, 0x40, 0x40]

/-- The bytes of the default font, glyphs 8 to F (10_state R115). -/
def fontHigh : List Byte :=
  [0xF0, 0x90, 0xF0, 0x90, 0xF0] ++ [0xF0, 0x90, 0xF0, 0x10, 0xF0] ++
  [0xF0, 0x90, 0xF0, 0x90, 0x90] ++ [0xE0, 0x90, 0xE0, 0x90, 0xE0] ++
  [0xF0, 0x80, 0x80, 0x80, 0xF0] ++ [0xE0, 0x90, 0x90, 0x90, 0xE0] ++
  [0xF0, 0x80, 0xF0, 0x80, 0xF0] ++ [0xF0, 0x80, 0xF0, 0x80, 0x80]

/-- The default of parameter FONT: 16 glyphs of 5 bytes (R115, D18). -/
def defaultFont : Vector Byte 80 := ⟨(fontLow ++ fontHigh).toArray, rfl⟩

/-- The defaults of R9: ADDR_MODE = fault, VF_ALIAS = latched, LOAD_FAIL_RESETS = false, FONT = the standard font. -/
def defaultParams : Params :=
  { font := defaultFont, addrMode := .fault, vfAlias := .latched, loadFailResets := false }

end Sys2Proof.Machine
end

