-- ==== Sys2Proof/Machine/State.lean ====
section
/-! DEFINITION. The state of the core (10_state), the faults and refusals of a step, and the state after reset (R120). -/

namespace Sys2Proof.Machine

/-- Memory as the list of the cells that differ from the reset content (`Memory.background`), addresses strictly rising. -/
abbrev Memory := List Host.Cell

/-- The framebuffer: 32 rows of 64 pixels, row y, then column x (R114). -/
abbrev Framebuffer := Vector (Vector Bool 64) 32

/-- The faults of 60_exceptions R700: what a rule of the spec raises by `raise F(info)`. `State.latch` TAKES a fault: the step that
raises one answers a NEXT state with the fault registers written (R710), so no step of this model ends in an outcome `fault`. -/
inductive Fault where
  /-- Code 1. Raised by `step` when decode rejects the word (R311). Safe: the spec's own effect. -/
  | unknownInstruction
  /-- Code 2. Raised by CALL when SP = 16 (R453). Safe: the spec's own effect. -/
  | stackOverflow
  /-- Code 3. Raised by RET when SP = 0 (R451). Safe: the spec's own effect. -/
  | stackUnderflow
  /-- Code 4. Raised by `check` for the fetch, DRW, LD B, LD [I], LD Vx [I], with the first address above 0xFFF, only with
  ADDR_MODE = fault (R203). Safe: the spec's own effect. -/
  | addressOutOfRange (a : Nat)
  /-- Code 5. Raised by `keyIndex` for SKP and SKNP, with the value of V[X] above 15 (R600). Safe: the spec's own effect. -/
  | keyIndexOutOfRange (k : Byte)
  deriving DecidableEq, Repr

/-- Why a step has no meaning. -/
inductive Refusal where
  /-- An instruction without a meaning; raised by no arm of `exec` (all 34 have theirs). Safe. -/
  | notModelled (mnemonic : String)
  deriving DecidableEq, Repr

structure State where
  /-- V[0..15], the general registers; V[15] is VF (R100, R101). -/
  v : Vector Byte 16
  /-- PC (R103). -/
  pc : Word
  /-- I (R106). -/
  i : Word
  /-- SP, the next free slot, 0..16 (R107). -/
  sp : Fin 17
  /-- STACK[0..15] (R107, R108). -/
  stack : Vector Word 16
  /-- DT (R111). -/
  dt : Byte
  /-- ST (R111, R112). -/
  st : Byte
  /-- MEM (R113, R200): the bytes that differ from the reset content. -/
  mem : Memory
  /-- FB[y][x] (R114). -/
  fb : Framebuffer
  /-- KEY[0..15], true when pressed (R116). -/
  keys : Vector Bool 16
  /-- FAULT, 0 for none (R119). -/
  fault : BitVec 3
  /-- FAULT_PC (R119). -/
  faultPc : Word
  /-- FAULT_OP (R119). -/
  faultOp : Word
  /-- FAULT_INFO (R119). -/
  faultInfo : BitVec 17
  /-- The parameters of R9; nothing changes them. -/
  params : Params
  /-- The MODEL's own (log entry 2): the random byte the host names for the next step, if it names one (R140). -/
  rnd : Option Byte
  /-- The MODEL's own (log entry 2): the number of the step whose free inputs come next. -/
  draws : Nat
  deriving DecidableEq, Repr

/-- The state right after reset (R120, R800, R802), with the parameters at their defaults. -/
def State.reset : State :=
  { v := Vector.replicate 16 0, pc := 0x200, i := 0, sp := 0, stack := Vector.replicate 16 0, dt := 0, st := 0, mem := [],
    fb := Vector.replicate 32 (Vector.replicate 64 false), keys := Vector.replicate 16 false,
    fault := 0, faultPc := 0, faultOp := 0, faultInfo := 0,
    params := defaultParams, rnd := none, draws := 0 }

/-- What a step or a meaning answers. -/
abbrev Out := Host.Outcome State Fault Refusal

end Sys2Proof.Machine
end

