-- ==== Sys2Proof/Machine/Memory.lean ====
section
/-! DEFINITION. Memory cells in their one canonical form: addresses strictly rising, below 4096, no cell equal to what an unlisted address
reads as. `bg` is what an unlisted address reads as. -/

namespace Sys2Proof.Machine

/-- MEM_SIZE (00_scope R8). -/
def memSize : Nat := 4096
/-- FONT_BASE (R8, R115). -/
def fontBase : Nat := 0x50
/-- PROG_BASE, the reset PC (R8). -/
def progBase : Nat := 0x200
/-- MAX_PROG (R8). -/
def maxProg : Nat := 3584

/-- What an unlisted address reads as: the reset content of memory, FONT at 0x050..0x09F and 0x00 elsewhere (R120, R201). -/
def Memory.background (font : Vector Byte 80) (a : Nat) : Byte :=
  if h : 0x50 ≤ a ∧ a < 0xA0 then font[a - 0x50]'(by omega) else 0

/-- One byte. -/
def Memory.read (bg : Nat → Byte) : Memory → Nat → Byte
  | [], a => bg a
  | (b, w) :: rest, a => if a = b then w else Memory.read bg rest a

/-- A cell put before a list, unless it holds what an unlisted address reads as. -/
def Memory.put (bg : Nat → Byte) (a : Nat) (x : Byte) (m : Memory) : Memory :=
  if x = bg a then m else (a, x) :: m

/-- One byte stored. -/
def Memory.write (bg : Nat → Byte) : Memory → Nat → Byte → Memory
  | [], a, x => Memory.put bg a x []
  | (b, w) :: rest, a, x =>
    if a < b then Memory.put bg a x ((b, w) :: rest)
    else if a = b then Memory.put bg a x rest
    else (b, w) :: Memory.write bg rest a x

/-- The canonical form. -/
def Memory.wf (bg : Nat → Byte) : Memory → Bool
  | [] => true
  | (a, w) :: rest =>
    decide (a < 4096) && decide (w ≠ bg a) && rest.all (fun c => decide (a < c.1)) && Memory.wf bg rest

end Sys2Proof.Machine
end

