-- ==== Sys2Proof/Machine/Ops.lean ====
section
/-! DEFINITION. The named operations over the state: registers, stack, memory, framebuffer, timers, free inputs, the address check, the
fetch, and taking a fault (60_exceptions R710), which is one shared operation. There is no return from a fault (R720): the ways out are
`reset` and `load`, in Machine/Transactions.lean. -/

namespace Sys2Proof.Machine

/-! General registers (R100). -/

/-- VF = V[15] (R101). -/
def vf : Nibble := 0xF#4

/-- V[r]. -/
def State.getV (s : State) (r : Nibble) : Byte := s.v[r.toNat]'(r.isLt)

/-- `V[r] <- x`. -/
def State.setV (s : State) (r : Nibble) (x : Byte) : State := { s with v := s.v.set r.toNat x r.isLt }

/-- `PC <- a`. -/
def State.setPc (s : State) (a : Word) : State := { s with pc := a }

/-- `PC <- (PC + 2) mod 2^16`: the advance before execution (R320, R321) and the skip (R450, R459). -/
def State.skip (s : State) : State := s.setPc (s.pc + 2)

/-- `PC <- (PC - 2) mod 2^16`: back to this instruction (R604). -/
def State.rewind (s : State) : State := s.setPc (s.pc - 2)

/-- `I <- a`. -/
def State.setI (s : State) (a : Word) : State := { s with i := a }

/-- `DT <- x`. -/
def State.setDt (s : State) (x : Byte) : State := { s with dt := x }

/-- `ST <- x`. -/
def State.setSt (s : State) (x : Byte) : State := { s with st := x }

/-! The call stack (R107, R108). -/

/-- STACK[k]. -/
def State.stackAt (s : State) (k : Fin 16) : Word := s.stack[k.val]

/-- Push, then increment (R107, R453); none when SP = 16. -/
def State.push (s : State) (a : Word) : Option State :=
  if h : s.sp.val < 16 then
    some { s with stack := s.stack.set s.sp.val a h, sp := ⟨s.sp.val + 1, by omega⟩ }
  else none

/-- Decrement, then pop (R107, R451): the popped entry and the state with SP lowered; none when SP = 0. The entry keeps its value (R109). -/
def State.pop (s : State) : Option (Word × State) :=
  if h : 0 < s.sp.val then
    some (s.stack[s.sp.val - 1]'(by omega), { s with sp := ⟨s.sp.val - 1, by omega⟩ })
  else none

/-! Memory (R200 to R206). -/

/-- MEM[a], for an address that has passed the check. -/
def State.memByte (s : State) (a : Nat) : Byte := Memory.read (Memory.background s.params.font) s.mem a

/-- `MEM[a] <- x`, for an address that has passed the check. -/
def State.setMemByte (s : State) (a : Nat) (x : Byte) : State :=
  { s with mem := Memory.write (Memory.background s.params.font) s.mem a x }

/-- `MEM[a] <- x` for each pair, in order. -/
def State.storeAll (s : State) : List (Nat × Byte) → State
  | [] => s
  | (a, x) :: rest => (s.setMemByte a x).storeAll rest

/-- The address check (R203). -/
def check (m : AddrMode) (a : Nat) : Except Fault Nat :=
  if a ≤ 0xFFF then .ok a
  else
    match m with
    | .fault => .error (.addressOutOfRange a)
    | .wrap12 => .ok (a % 4096)

/-- The check of every address of an access, in the access's order, before any byte moves (R204, R713). -/
def checkAll (m : AddrMode) : List Nat → Except Fault (List Nat)
  | [] => .ok []
  | a :: as =>
    match check m a with
    | .error f => .error f
    | .ok b =>
      match checkAll m as with
      | .error f => .error f
      | .ok bs => .ok (b :: bs)

/-- FetchWord(PC) (R205): both addresses checked, then the two bytes, big-endian. `PC + 1` is a natural number (R203). -/
def State.fetchWord (s : State) : Except Fault Word :=
  match check s.params.addrMode s.pc.toNat with
  | .error f => .error f
  | .ok a0 =>
    match check s.params.addrMode (s.pc.toNat + 1) with
    | .error f => .error f
    | .ok a1 => .ok (wordOfBytes (s.memByte a0) (s.memByte a1))

/-! The framebuffer (R114, R400). -/

/-- FB[y][x]; coordinates are taken modulo the screen (R402). -/
def Framebuffer.at (fb : Framebuffer) (x y : Nat) : Bool :=
  (fb[y % 32]'(Nat.mod_lt _ (by decide)))[x % 64]'(Nat.mod_lt _ (by decide))

/-- `FB[y][x] <- FB[y][x] ^ 1`; coordinates are taken modulo the screen (R402). -/
def Framebuffer.toggle (fb : Framebuffer) (x y : Nat) : Framebuffer :=
  fb.set (y % 32)
    ((fb[y % 32]'(Nat.mod_lt _ (by decide))).set (x % 64) (!(fb.at x y)) (Nat.mod_lt _ (by decide)))
    (Nat.mod_lt _ (by decide))

/-- All pixels off (R401). -/
def Framebuffer.blank : Framebuffer := Vector.replicate 32 (Vector.replicate 64 false)

/-- FB[y][x]. -/
def State.pixel (s : State) (x y : Nat) : Bool := s.fb.at x y

/-- The framebuffer replaced. -/
def State.setFb (s : State) (fb : Framebuffer) : State := { s with fb := fb }

/-! The keypad (R116). -/

/-- KEY[k]. -/
def State.key (s : State) (k : Nibble) : Bool := s.keys[k.toNat]'(k.isLt)

/-! The timers (R740). -/

/-- One countdown: lowered by 1 while above 0. -/
def tickByte (x : Byte) : Byte := if x = 0 then 0 else x - 1

/-- timer_tick() (R740). -/
def State.timerTick (s : State) : State := { s with dt := tickByte s.dt, st := tickByte s.st }

/-! Free inputs of a step (R140, R503, R562; log entries 2 and 3). -/

/-- The random byte of this step: the one the host names, or a free byte. -/
def State.rndByte (s : State) : Byte := s.rnd.getD (Config.freeRnd s.draws)

/-- The inputs of this step are used up: the next step has its own. -/
def State.nextInputs (s : State) : State := { s with rnd := none, draws := s.draws + 1 }

/-! Taking a fault (R700, R710). -/

/-- The code of a fault (R700). -/
def Fault.code : Fault → BitVec 3
  | .unknownInstruction => 1
  | .stackOverflow => 2
  | .stackUnderflow => 3
  | .addressOutOfRange _ => 4
  | .keyIndexOutOfRange _ => 5

/-- The FAULT_INFO of a fault (R700). -/
def Fault.info : Fault → BitVec 17
  | .unknownInstruction => 0
  | .stackOverflow => 16
  | .stackUnderflow => 0
  | .addressOutOfRange a => BitVec.ofNat 17 a
  | .keyIndexOutOfRange k => k.setWidth 17

/-- Fault entry (R710) at the state before the step: only the four fault registers are written. `a` is the address of the faulting
instruction, `op` its word (0 when the fetch itself faults, R700). -/
def State.latch (s0 : State) (a op : Word) (f : Fault) : State :=
  { s0 with fault := f.code, faultPc := a, faultOp := op, faultInfo := f.info }

/-- `raise F(info)` inside an instruction whose word is `op` (R15, R320). Every rule checks before it writes, so the only write of the
step so far is the advance of PC, which is taken back. -/
def State.raise (s : State) (op : Word) (f : Fault) : Out :=
  .next (s.rewind.latch (s.pc - 2) op f)

end Sys2Proof.Machine
end

