-- ==== Sys2Proof/Machine/Cycle.lean ====
section
/-! DEFINITION. The parts of a step around the instruction (30_encoding R320, R323), and where a step fetches. -/

namespace Sys2Proof.Machine

/-- The end of a step (R320, R323): after an instruction that raised no fault, the timers tick and the step's inputs are used up; a step
that took a fault leaves no other trace. -/
def State.finish (t : State) : State := if t.fault = 0 then t.timerTick.nextInputs else t

/-- The end of a step on the instruction's outcome. -/
def finishOut : Out → Out
  | .next t => .next t.finish
  | .fault f => .fault f
  | .refused r => .refused r

/-- Where a fetch at PC finds its two bytes: the addresses that `check` gives (R203, R205); with ADDR_MODE = fault and PC above 0xFFE,
where no fetch succeeds, the reset PC. -/
def State.fetchablePc (s : State) : Word :=
  match s.fetchWord with
  | .ok _ => s.pc
  | .error _ => BitVec.ofNat 16 progBase

/-- A word stored where the next step fetches (log entry 6): no fault latched, PC fetchable, the high byte at PC and the low byte after
it (R206), each address reduced as `wrap12` reduces it. -/
def State.placeWord (s : State) (w : Word) : State :=
  let t := { s with fault := 0, pc := s.fetchablePc }
  (t.setMemByte (t.pc.toNat % 4096) (highByte w)).setMemByte ((t.pc.toNat + 1) % 4096) (lowByte w)

end Sys2Proof.Machine
end

