-- ==== Sys2Proof/Machine/Operands.lean ====
section
/-! DEFINITION. The operand forms: zero-extended NNN (R303, R450), the block of bytes at I (46, R208), the registers V0..Vx, the key number
(R600), the font address (R651), the BCD digits (R652). -/

namespace Sys2Proof.Machine

/-- `zext_16(NNN)` (R303). -/
def zextNnn (nnn : Addr12) : Word := nnn.setWidth 16

/-- The addresses I, I+1, ..., I+n−1 as natural numbers (R203, R208). -/
def blockAddrs (i : Word) (n : Nat) : List Nat := (List.range n).map (fun k => i.toNat + k)

/-- The checked addresses of the n bytes at I (R204). -/
def State.checkBlock (s : State) (n : Nat) : Except Fault (List Nat) :=
  checkAll s.params.addrMode (blockAddrs s.i n)

/-- V0, V1, ..., Vx (R653, R654). -/
def blockRegs (x : Nibble) : List Nibble := (List.range (x.toNat + 1)).map (BitVec.ofNat 4)

/-- `V[k] <- MEM[a]` for each pair, in order (R654). -/
def State.loadAll (s : State) : List (Nibble × Nat) → State
  | [] => s
  | (r, a) :: rest => (s.setV r (s.memByte a)).loadAll rest

/-- The key index check (R600): V[X] above 15 raises KeyIndexOutOfRange. -/
def keyIndex (k : Byte) : Except Fault Nibble :=
  if k.toNat > 15 then .error (.keyIndexOutOfRange k) else .ok (k.setWidth 4)

/-- `min { k : KEY[k] }`, none when no key is pressed (R604). -/
def State.lowestKey (s : State) : Option Nibble :=
  ((List.range 16).map (BitVec.ofNat 4)).find? s.key

/-- `0x050 + 5 * V[X]`, the address of the glyph (R651). -/
def glyphAddr (d : Byte) : Word := BitVec.ofNat 16 (fontBase + 5 * d.toNat)

/-- The hundreds, tens and ones of a byte (R652). -/
def bcdDigits (x : Byte) : List Byte :=
  [BitVec.ofNat 8 (x.toNat / 100), BitVec.ofNat 8 (x.toNat / 10 % 10), BitVec.ofNat 8 (x.toNat % 10)]

end Sys2Proof.Machine
end

