-- ==== Sys2Proof/Machine/Flags.lean ====
section
/-! DEFINITION. The flag computations: VF is the core's only flag (10_state R102). Each is computed exactly on natural numbers (00_scope R12)
and narrowed at the end. -/

namespace Sys2Proof.Machine

/-- A flag as VF holds it: 1 or 0. -/
def flagByte (b : Bool) : Byte := if b then 1 else 0

/-- ADD's carry: the 8-bit sum overflows 255 (R550, R556). -/
def carryOf (a b : Byte) : Bool := decide (a.toNat + b.toNat > 255)

/-- ADD's result, `s mod 256` (R556, R501). -/
def sumOf (a b : Byte) : Byte := BitVec.ofNat 8 (a.toNat + b.toNat)

/-- The flag of SUB and SUBN: the minuend strictly greater than the subtrahend (R550, R557, R559; 90 C5). -/
def noBorrowOf (a b : Byte) : Bool := decide (a.toNat > b.toNat)

/-- `(a - b) mod 256`, that is `a + 256 - b` when a < b (R557, R559). -/
def diffOf (a b : Byte) : Byte := BitVec.ofNat 8 (a.toNat + 256 - b.toNat)

/-- The bit SHR shifts out (R558). -/
def lowBitOf (a : Byte) : Bool := a.getLsbD 0

/-- The bit SHL shifts out (R560). -/
def highBitOf (a : Byte) : Bool := a.getLsbD 7

/-- The one write order of the flag-writing operations: VF first, V[X] second (R551). With X = F the result stands. -/
def State.writeFlagged (s : State) (x : Nibble) (flag : Bool) (result : Byte) : State :=
  (s.setV vf (flagByte flag)).setV x result

/-- The cases that R562 leaves open: X = F, or Y = F of an operation that reads Y; only with VF_ALIAS = draw. -/
def State.unsettled (s : State) (x : Nibble) (y : Option Nibble) : Bool :=
  s.params.vfAlias == .draw && (x == vf || y == some vf)

/-- The result and flag of SUB, SUBN, SHR and SHL: R551, or free values where R562 leaves V[X] and VF open. -/
def State.writeAliased (s : State) (x : Nibble) (y : Option Nibble) (flag : Bool) (result : Byte) : State :=
  if s.unsettled x y then (s.setV vf (Config.freeVf s.draws)).setV x (Config.freeVx s.draws)
  else s.writeFlagged x flag result

end Sys2Proof.Machine
end

