-- ==== Sys2Proof/Machine/Alu.lean ====
section
/-! DEFINITION. Register arithmetic (44_register_alu). Operands are read once at the start (R551). -/

namespace Sys2Proof.Machine

/-- MOV Vx, Vy (R552). -/
def execMov (x y : Nibble) (s : State) : Out := .next (s.setV x (s.getV y))

/-- OR Vx, Vy (R553): no flag. -/
def execOr (x y : Nibble) (s : State) : Out := .next (s.setV x (s.getV x ||| s.getV y))

/-- AND Vx, Vy (R554): no flag. -/
def execAnd (x y : Nibble) (s : State) : Out := .next (s.setV x (s.getV x &&& s.getV y))

/-- XOR Vx, Vy (R555): no flag. -/
def execXor (x y : Nibble) (s : State) : Out := .next (s.setV x (s.getV x ^^^ s.getV y))

/-- ADD Vx, Vy (R556): VF = carry, then the sum. The source orders it, so R562 does not touch it. -/
def execAdd (x y : Nibble) (s : State) : Out :=
  .next (s.writeFlagged x (carryOf (s.getV x) (s.getV y)) (sumOf (s.getV x) (s.getV y)))

/-- SUB Vx, Vy (R557, R562). -/
def execSub (x y : Nibble) (s : State) : Out :=
  .next (s.writeAliased x (some y) (noBorrowOf (s.getV x) (s.getV y)) (diffOf (s.getV x) (s.getV y)))

/-- SHR Vx (R558, R562): Y is not read. -/
def execShr (x : Nibble) (s : State) : Out :=
  .next (s.writeAliased x none (lowBitOf (s.getV x)) (s.getV x >>> 1))

/-- SUBN Vx, Vy (R559, R562). -/
def execSubn (x y : Nibble) (s : State) : Out :=
  .next (s.writeAliased x (some y) (noBorrowOf (s.getV y) (s.getV x)) (diffOf (s.getV y) (s.getV x)))

/-- SHL Vx (R560, R562): Y is not read. -/
def execShl (x : Nibble) (s : State) : Out :=
  .next (s.writeAliased x none (highBitOf (s.getV x)) (s.getV x <<< 1))

end Sys2Proof.Machine
end

