-- ==== Sys2Proof/Machine/Control.lean ====
section
/-! DEFINITION. Control transfer (42_control_flow): return, jump, call, the value skips, jump with offset. No target is checked (R460). -/

namespace Sys2Proof.Machine

/-- RET (R451). `ign` only shows in FAULT_OP. -/
def execRet (ign : Byte) (s : State) : Out :=
  match s.pop with
  | none => s.raise (encode (.ret ign)) .stackUnderflow
  | some (a, t) => .next (t.setPc a)

/-- JP NNN (R452). -/
def execJp (nnn : Addr12) (s : State) : Out := .next (s.setPc (zextNnn nnn))

/-- CALL NNN (R453): the pushed value is the address of the word after the CALL. -/
def execCall (nnn : Addr12) (s : State) : Out :=
  match s.push s.pc with
  | none => s.raise (encode (.call nnn)) .stackOverflow
  | some t => .next (t.setPc (zextNnn nnn))

/-- A skip: PC += 2 when the condition holds (R450, R459). -/
def State.skipIf (s : State) (c : Bool) : State := if c then s.skip else s

/-- SE Vx, NN (R454). -/
def execSeImm (x : Nibble) (nn : Byte) (s : State) : Out := .next (s.skipIf (s.getV x == nn))

/-- SNE Vx, NN (R455). -/
def execSneImm (x : Nibble) (nn : Byte) (s : State) : Out := .next (s.skipIf (s.getV x != nn))

/-- SE Vx, Vy (R456). -/
def execSeReg (x y : Nibble) (s : State) : Out := .next (s.skipIf (s.getV x == s.getV y))

/-- SNE Vx, Vy (R457). -/
def execSneReg (x y : Nibble) (s : State) : Out := .next (s.skipIf (s.getV x != s.getV y))

/-- JP V0, NNN (R458): always V0; the sum is not reduced to 12 bits. -/
def execJpV0 (nnn : Addr12) (s : State) : Out :=
  .next (s.setPc (BitVec.ofNat 16 ((zextNnn nnn).toNat + (s.getV 0#4).toNat)))

end Sys2Proof.Machine
end

