-- ==== Sys2Proof/Machine/Display.lean ====
section
/-! DEFINITION. The display instructions (41_display). PC holds the instruction's address + 2 on entry, as in every family (R321). -/

namespace Sys2Proof.Machine

/-- CLS (R401): all pixels off. -/
def execCls (s : State) : Out := .next (s.setFb Framebuffer.blank)

/-- One pixel of the draw: under a set sprite bit the pixel is toggled, and a lit one turned off is a collision (R402). -/
def plot (fb : Framebuffer) (hit : Bool) (x y : Nat) (bit : Bool) : Framebuffer × Bool :=
  if bit then (fb.toggle x y, hit || fb.at x y) else (fb, hit)

/-- Columns c, c+1, ..., of a sprite row: column offset c takes bit 7 − c (R400). -/
def drawCols (x0 y : Nat) (row : Byte) : List Nat → Framebuffer → Bool → Framebuffer × Bool
  | [], fb, hit => (fb, hit)
  | c :: cs, fb, hit =>
    drawCols x0 y row cs (plot fb hit (x0 + c) y (row.getLsbD (7 - c))).1 (plot fb hit (x0 + c) y (row.getLsbD (7 - c))).2

/-- The rows of a sprite, from row `y` downwards (R402); `plot` wraps both axes. -/
def drawRows (x0 : Nat) : Nat → List Byte → Framebuffer → Bool → Framebuffer × Bool
  | _, [], fb, hit => (fb, hit)
  | y, row :: rows, fb, hit =>
    drawRows x0 (y + 1) rows (drawCols x0 y row (List.range 8) fb hit).1 (drawCols x0 y row (List.range 8) fb hit).2

/-- DRW Vx, Vy, N (R402, R403): the position is read before VF is cleared, every address is checked before any write. -/
def execDrw (x y n : Nibble) (s : State) : Out :=
  match s.checkBlock n.toNat with
  | .error f => s.raise (encode (.drw x y n)) f
  | .ok addrs =>
    .next (((s.setV vf 0).setFb
        (drawRows ((s.getV x).toNat % 64) ((s.getV y).toNat % 32) (addrs.map s.memByte) s.fb false).1).setV vf
      (flagByte (drawRows ((s.getV x).toNat % 64) ((s.getV y).toNat % 32) (addrs.map s.memByte) s.fb false).2))

end Sys2Proof.Machine
end

