-- ==== Sys2Proof/Machine/Immediate.lean ====
section
/-! DEFINITION. Immediate instructions (43_immediate): load, add without flag, load index, random AND. -/

namespace Sys2Proof.Machine

/-- LD Vx, NN (R500). -/
def execLdImm (x : Nibble) (nn : Byte) (s : State) : Out := .next (s.setV x nn)

/-- ADD Vx, NN (R501): wraps, no flag. -/
def execAddImm (x : Nibble) (nn : Byte) (s : State) : Out := .next (s.setV x (sumOf (s.getV x) nn))

/-- LD I, NNN (R502). -/
def execLdI (nnn : Addr12) (s : State) : Out := .next (s.setI (zextNnn nnn))

/-- RND Vx, NN (R503): the step's random byte, ANDed once. -/
def execRnd (x : Nibble) (nn : Byte) (s : State) : Out := .next (s.setV x (s.rndByte &&& nn))

end Sys2Proof.Machine
end

