-- ==== Sys2Proof/Machine/IndexMem.lean ====
section
/-! DEFINITION. Index and memory instructions (46_index_memory). Every address is checked before any byte moves; I is not changed by
FX33, FX55 and FX65. -/

namespace Sys2Proof.Machine

/-- ADD I, Vx (R650): modulo 2^16, no flag. -/
def execAddIVx (x : Nibble) (s : State) : Out := .next (s.setI (s.i + (s.getV x).setWidth 16))

/-- LD F, Vx (R651): no mask on V[X]. -/
def execLdFVx (x : Nibble) (s : State) : Out := .next (s.setI (glyphAddr (s.getV x)))

/-- LD B, Vx (R652). -/
def execLdBVx (x : Nibble) (s : State) : Out :=
  match s.checkBlock 3 with
  | .error f => s.raise (encode (.ldBVx x)) f
  | .ok addrs => .next (s.storeAll (addrs.zip (bcdDigits (s.getV x))))

/-- LD [I], Vx (R653). -/
def execLdMemVx (x : Nibble) (s : State) : Out :=
  match s.checkBlock (x.toNat + 1) with
  | .error f => s.raise (encode (.ldMemVx x)) f
  | .ok addrs => .next (s.storeAll (addrs.zip ((blockRegs x).map s.getV)))

/-- LD Vx, [I] (R654). -/
def execLdVxMem (x : Nibble) (s : State) : Out :=
  match s.checkBlock (x.toNat + 1) with
  | .error f => s.raise (encode (.ldVxMem x)) f
  | .ok addrs => .next (s.loadAll ((blockRegs x).zip addrs))

end Sys2Proof.Machine
end

