-- ==== Sys2Proof/Machine/KeyTimer.lean ====
section
/-! DEFINITION. Keypad and timer instructions (45_keypad_timer). The keypad is as the host left it before the step (R142); the timer tick
follows in the step (R740). -/

namespace Sys2Proof.Machine

/-- SKP Vx (R600, R601). `ign` only shows in FAULT_OP. -/
def execSkp (x ign : Nibble) (s : State) : Out :=
  match keyIndex (s.getV x) with
  | .error f => s.raise (encode (.skp x ign)) f
  | .ok k => .next (s.skipIf (s.key k))

/-- SKNP Vx (R600, R602). `ign` only shows in FAULT_OP. -/
def execSknp (x ign : Nibble) (s : State) : Out :=
  match keyIndex (s.getV x) with
  | .error f => s.raise (encode (.sknp x ign)) f
  | .ok k => .next (s.skipIf (!(s.key k)))

/-- LD Vx, DT (R603). -/
def execLdVxDt (x : Nibble) (s : State) : Out := .next (s.setV x s.dt)

/-- LD Vx, K (R604): no key pressed, back to this instruction; else the lowest pressed key. -/
def execLdVxK (x : Nibble) (s : State) : Out :=
  match s.lowestKey with
  | none => .next s.rewind
  | some k => .next (s.setV x (k.setWidth 8))

/-- LD DT, Vx (R605). -/
def execLdDtVx (x : Nibble) (s : State) : Out := .next (s.setDt (s.getV x))

/-- LD ST, Vx (R606). -/
def execLdStVx (x : Nibble) (s : State) : Out := .next (s.setSt (s.getV x))

end Sys2Proof.Machine
end

