-- ==== Sys2Proof/Machine/Step.lean ====
section
/-! DEFINITION. One step (30_encoding R320). -/

namespace Sys2Proof.Machine

/-- The `step(rnd)` transaction (R140, R320): a core with a latched fault does nothing (R712); a fetch or decode fault is taken at the
state before the step (R710); else PC is advanced, the instruction runs, and the timers tick. The transaction's result is read off the
state it leaves (`State.stepResult`). -/
def step (s : State) : Host.Outcome State Fault Refusal :=
  if s.fault ≠ 0 then .next s
  else
    match s.fetchWord with
    | .error f => .next (s.latch s.pc 0 f)
    | .ok op =>
      match decode op with
      | .error _ => .next (s.latch s.pc op .unknownInstruction)
      | .ok i => finishOut (exec i s.skip)

/-- The host's question: a table word of `nbits` bits stored where `step` fetches its next instruction. -/
def State.withFetchWord (s : State) (nbits w : Nat) : State := s.placeWord (tableWord nbits w)

end Sys2Proof.Machine
end

