-- ==== Sys2Proof/Machine/Transactions.lean ====
section
/-! DEFINITION. The host's transactions besides `step` (10_state R140, 70_reset_and_hazards R800 to R805) and the surfaces it reads and
writes between transactions (R141, R142); then the host's whole interface in one piece: every action it has (R140, R761) and all it sees
(R143, R761). `reset` and `load` are the only ways out of a latched fault (60_exceptions R720). -/

namespace Sys2Proof.Machine

/-- `reset()` (R800): every element at its R120 value. The parameters are arguments of the core and stay (R9); the numbering of the free
inputs goes on, so that no random byte is promised to come again (log entry 2). -/
def State.doReset (s : State) : State := { State.reset with params := s.params, draws := s.draws }

/-- What `load` answers (R701, R803). -/
inductive LoadResult where
  | ok
  | programTooLarge
  deriving DecidableEq, Repr

/-- The bytes copied to addresses a, a+1, ... -/
def State.copyFrom (s : State) (a : Nat) (bytes : List Byte) : State :=
  s.storeAll ((List.range bytes.length).map (a + ·) |>.zip bytes)

/-- `load(bytes)` (R803, R804, R805): the size is checked before the reset; a failing load changes nothing, or resets with
LOAD_FAIL_RESETS. -/
def State.load (s : State) (bytes : List Byte) : LoadResult × State :=
  if bytes.length > maxProg then
    (.programTooLarge, if s.params.loadFailResets then s.doReset else s)
  else (.ok, s.doReset.copyFrom progBase bytes)

/-- The host sets or clears a key, between steps (R141, R142). -/
def State.setKey (s : State) (k : Nibble) (pressed : Bool) : State := { s with keys := s.keys.set k.toNat pressed k.isLt }

/-- The host names the random byte of the next step (R140). -/
def State.withRnd (s : State) (b : Byte) : State := { s with rnd := some b }

/-- `step(rnd)` with a random byte the host names (R140). -/
def stepRnd (b : Byte) (s : State) : Out := step (s.withRnd b)

/-- What `step` answers (R140, R320): Ok, or Fault(code). -/
inductive StepResult where
  | ok
  | fault (code : BitVec 3)
  deriving DecidableEq, Repr

/-- The result of the step that left this state: Fault(FAULT) exactly when a fault is latched (R710, R712). -/
def State.stepResult (t : State) : StepResult := if t.fault = 0 then .ok else .fault t.fault

/-- The display surface (R141): the 2048 pixels, row-major, element `y*64 + x` (R114). -/
def State.display (s : State) : List Bool := s.fb.toList.flatMap Vector.toList

/-- The sound surface (R112, R141, R751): sound is on while ST ≠ 0. -/
def State.soundOn (s : State) : Bool := s.st != 0

/-- The fault status surface (R119, R141): FAULT, FAULT_PC, FAULT_OP, FAULT_INFO. -/
def State.faultStatus (s : State) : BitVec 3 × Word × Word × BitVec 17 := (s.fault, s.faultPc, s.faultOp, s.faultInfo)

/-- The sound timer surface (R112, R141): ST, read-only. -/
def State.soundTimer (s : State) : Byte := s.st

/-! The whole interface (R140, R141, R143, 60_exceptions R761). -/

/-- All that the host sees of the core between transactions: the surfaces of R141, and no register, stack entry, delay timer or byte of
memory (R143); there is no trace, no performance counter and no other debug view (R761). -/
structure HostView where
  /-- The display surface, row-major. -/
  display : List Bool
  /-- The keypad surface, KEY[0] to KEY[15]; the one the host also writes. -/
  keypad : Vector Bool 16
  /-- The sound timer surface. -/
  soundTimer : Byte
  /-- The fault status surface: FAULT, FAULT_PC, FAULT_OP, FAULT_INFO. -/
  faultStatus : BitVec 3 × Word × Word × BitVec 17
  deriving DecidableEq, Repr

/-- What the host sees in a state (R141, R761). -/
def State.hostView (s : State) : HostView :=
  { display := s.display, keypad := s.keys, soundTimer := s.soundTimer, faultStatus := s.faultStatus }

/-- All that the host can do: the three transactions of R140 and the key write of R141. There is no breakpoint, no watchpoint and no
single-step control but `step` (R761). -/
inductive HostAction where
  | reset
  | load (bytes : List Byte)
  | step (rnd : Byte)
  | setKey (k : Nibble) (pressed : Bool)
  deriving DecidableEq, Repr

/-- What an action answers (R140): nothing, the result of a load, or the result of a step. -/
inductive HostAnswer where
  | nothing
  | load (result : LoadResult)
  | step (result : StepResult)
  deriving DecidableEq, Repr

/-- One action of the host: its answer and the state it leaves. -/
def hostAct (a : HostAction) (s : State) : Host.Outcome (HostAnswer × State) Fault Refusal :=
  match a with
  | .reset => .next (.nothing, s.doReset)
  | .load bytes => .next (.load (s.load bytes).1, (s.load bytes).2)
  | .step rnd =>
    match stepRnd rnd s with
    | .next t => .next (.step t.stepResult, t)
    | .fault f => .fault f
    | .refused r => .refused r
  | .setKey k pressed => .next (.nothing, s.setKey k pressed)

end Sys2Proof.Machine
end

