-- ==== Sys2Proof/Safety.lean ====
section
/-! DEFINITION. The terms the statements use: what every reachable state meets, which fault a step takes, what an instruction may change, and
the sprite over the screen. Written from the rules of spec/, not from the meanings. -/

namespace Sys2Proof.Machine

/-! The invariant. -/

/-- Memory is in its canonical form. -/
def State.MemOk (s : State) : Prop := Memory.wf (Memory.background s.params.font) s.mem = true

/-- With ADDR_MODE = fault the largest PC any step leaves is 0x10FE, and no return address is above 0x1000 (10_state R105). -/
def State.PcOk (s : State) : Prop :=
  s.params.addrMode = .fault → s.pc.toNat ≤ 0x10FE ∧ ∀ k, (s.stackAt k).toNat ≤ 0x1000

/-- The fault status is one that a fault of 60_exceptions R700 leaves at its own instruction: clear, or a code 1 to 5 with the condition
and the FAULT_INFO of its row, FAULT_PC the PC that still stands (R711) and FAULT_OP the word, or 0 when the fetch faulted (R119). -/
def State.FaultOk (s : State) : Prop :=
  (s.fault = 0 ∧ s.faultPc = 0 ∧ s.faultOp = 0 ∧ s.faultInfo = 0) ∨
  (s.faultPc = s.pc ∧
    ((s.fault = 1 ∧ s.faultInfo = 0 ∧ ∃ e, decode s.faultOp = .error e) ∨
     (s.fault = 2 ∧ s.faultInfo = 16 ∧ s.sp.val = 16 ∧ ∃ nnn, decode s.faultOp = .ok (.call nnn)) ∨
     (s.fault = 3 ∧ s.faultInfo = 0 ∧ s.sp.val = 0 ∧ ∃ ign, decode s.faultOp = .ok (.ret ign)) ∨
     (s.fault = 4 ∧ s.params.addrMode = .fault ∧ s.faultInfo.toNat > 0xFFF) ∨
     (s.fault = 5 ∧ s.faultInfo.toNat > 15 ∧ s.faultInfo.toNat ≤ 255)))

/-- What every state from a reset or a load on meets. -/
def State.Inv (s : State) : Prop := s.MemOk ∧ s.PcOk ∧ s.FaultOk

/-! Which fault a step takes (R700, R713). -/

/-- The fault of an access to the `n` bytes at I: the lowest address above 0xFFF, with ADDR_MODE = fault (R203, R713). -/
def State.blockFault (s : State) (n : Nat) : Option Fault :=
  if s.params.addrMode = .fault ∧ 0 < n ∧ s.i.toNat + n > 0x1000 then some (.addressOutOfRange (max s.i.toNat 0x1000)) else none

/-- The instruction's own check (R700, R713). -/
def ownFault (i : Instr) (s : State) : Option Fault :=
  match i with
  | .call _ => if s.sp.val = 16 then some .stackOverflow else none
  | .ret _ => if s.sp.val = 0 then some .stackUnderflow else none
  | .drw _ _ n => s.blockFault n.toNat
  | .ldBVx _ => s.blockFault 3
  | .ldMemVx x => s.blockFault (x.toNat + 1)
  | .ldVxMem x => s.blockFault (x.toNat + 1)
  | .skp x _ => if (s.getV x).toNat > 15 then some (.keyIndexOutOfRange (s.getV x)) else none
  | .sknp x _ => if (s.getV x).toNat > 15 then some (.keyIndexOutOfRange (s.getV x)) else none
  | _ => none

/-! Frames: what an instruction may change. -/

/-- What a rule names as written. `pc` says that the rule writes PC (beyond the step's own advance). -/
structure Footprint where
  regs : List Nibble := []
  pc : Bool := false
  i : Bool := false
  sp : Bool := false
  stack : List (Fin 16) := []
  dt : Bool := false
  st : Bool := false
  fb : Bool := false
  mem : List Nat := []

/-- Everything outside the footprint is as it was: registers, PC, I, SP, stack entries, timers, pixels, every byte of memory, the keypad,
the four fault registers, the parameters and the step's inputs. -/
def Frame (fp : Footprint) (s t : State) : Prop :=
  (∀ r, r ∉ fp.regs → t.getV r = s.getV r) ∧
  (fp.pc = false → t.pc = s.pc) ∧
  (fp.i = false → t.i = s.i) ∧
  (fp.sp = false → t.sp = s.sp) ∧
  (∀ k, k ∉ fp.stack → t.stackAt k = s.stackAt k) ∧
  (fp.dt = false → t.dt = s.dt) ∧
  (fp.st = false → t.st = s.st) ∧
  (fp.fb = false → ∀ x y, t.pixel x y = s.pixel x y) ∧
  (∀ a, a ∉ fp.mem → t.memByte a = s.memByte a) ∧
  (∀ k, t.key k = s.key k) ∧
  t.fault = s.fault ∧ t.faultPc = s.faultPc ∧ t.faultOp = s.faultOp ∧ t.faultInfo = s.faultInfo ∧
  t.params = s.params ∧ t.rnd = s.rnd ∧ t.draws = s.draws

/-- The byte addresses of a block at I that an instruction stores to: the checked addresses (R204). -/
def State.blockTouched (s : State) (n : Nat) : List Nat :=
  match s.checkBlock n with
  | .ok addrs => addrs
  | .error _ => []

/-- The stack entry a call writes. -/
def State.pushSlot (s : State) : List (Fin 16) := if h : s.sp.val < 16 then [⟨s.sp.val, h⟩] else []

/-- What the rule of each instruction names as written. -/
def footprint (i : Instr) (s : State) : Footprint :=
  match i with
  | .cls _ => { fb := true }
  | .ret _ => { pc := true, sp := true }
  | .jp _ => { pc := true }
  | .call _ => { pc := true, sp := true, stack := s.pushSlot }
  | .seImm _ _ => { pc := true }
  | .sneImm _ _ => { pc := true }
  | .seReg _ _ _ => { pc := true }
  | .sneReg _ _ _ => { pc := true }
  | .jpV0 _ => { pc := true }
  | .ldImm x _ => { regs := [x] }
  | .addImm x _ => { regs := [x] }
  | .ldI _ => { i := true }
  | .rnd x _ => { regs := [x] }
  | .mov x _ => { regs := [x] }
  | .or x _ => { regs := [x] }
  | .and x _ => { regs := [x] }
  | .xor x _ => { regs := [x] }
  | .add x _ => { regs := [x, 0xF#4] }
  | .sub x _ => { regs := [x, 0xF#4] }
  | .shr x _ => { regs := [x, 0xF#4] }
  | .subn x _ => { regs := [x, 0xF#4] }
  | .shl x _ => { regs := [x, 0xF#4] }
  | .drw _ _ _ => { regs := [0xF#4], fb := true }
  | .skp _ _ => { pc := true }
  | .sknp _ _ => { pc := true }
  | .ldVxDt x => { regs := [x] }
  | .ldVxK x => { regs := [x], pc := true }
  | .ldDtVx _ => { dt := true }
  | .ldStVx _ => { st := true }
  | .addIVx _ => { i := true }
  | .ldFVx _ => { i := true }
  | .ldBVx _ => { mem := s.blockTouched 3 }
  | .ldMemVx x => { mem := s.blockTouched (x.toNat + 1) }
  | .ldVxMem x => { regs := (List.range (x.toNat + 1)).map (BitVec.ofNat 4) }

/-! The sprite over the screen (41_display R402). -/

/-- The pixel (x, y) of the screen lies under a set bit of the n-row sprite at I drawn at (x0, y0): it is `c` columns right of x0 and `r`
rows below y0, both axes wrapping, with c < 8, r < n, and bit 7 − c of the sprite's row r is 1. -/
def State.underSprite (s : State) (n x0 y0 x y : Nat) : Bool :=
  decide ((x + 64 - x0 % 64) % 64 < 8) && decide ((y + 32 - y0 % 32) % 32 < n) &&
    (s.memByte ((s.i.toNat + (y + 32 - y0 % 32) % 32) % 4096)).getLsbD (7 - (x + 64 - x0 % 64) % 64)

/-- Instructions that may leave VF changed (10_state R101): the flag writers, DRW, those whose destination X is F, and FX65 up to VF. -/
def writesVf : Instr → Bool
  | .add _ _ => true
  | .sub _ _ => true
  | .shr _ _ => true
  | .subn _ _ => true
  | .shl _ _ => true
  | .drw _ _ _ => true
  | .ldImm x _ => x == 0xF#4
  | .addImm x _ => x == 0xF#4
  | .mov x _ => x == 0xF#4
  | .or x _ => x == 0xF#4
  | .and x _ => x == 0xF#4
  | .xor x _ => x == 0xF#4
  | .rnd x _ => x == 0xF#4
  | .ldVxDt x => x == 0xF#4
  | .ldVxK x => x == 0xF#4
  | .ldVxMem x => x == 0xF#4
  | _ => false

/-! Runs of steps. -/

/-- `t` is reached from `s` by `n` steps, each of which takes no fault and runs an instruction that `p` allows in the state it runs in. -/
def RunsQuietly (p : Instr → State → Prop) : Nat → State → State → Prop
  | 0, s, t => s = t
  | n + 1, s, t =>
    ∃ w i u, s.fault = 0 ∧ s.fetchWord = .ok w ∧ decode w = .ok i ∧ p i s ∧ step s = .next u ∧ u.fault = 0 ∧
      RunsQuietly p n u t

/-- The instruction is not FX15, the one that writes DT (R111). -/
def keepsDt (i : Instr) (_ : State) : Prop := ∀ x, i ≠ .ldDtVx x

/-- The instruction is not FX18, the one that writes ST (R111). -/
def keepsSt (i : Instr) (_ : State) : Prop := ∀ x, i ≠ .ldStVx x

/-- The instruction stores no byte in the font range 0x050..0x09F (20_memory R217). -/
def sparesFont (i : Instr) (s : State) : Prop := ∀ a ∈ (footprint i s).mem, ¬ (0x50 ≤ a ∧ a < 0xA0)

/-- The `n` bytes at I can be accessed (R203): with ADDR_MODE = wrap12 always, with `fault` when none lies above 0xFFF. -/
def State.InRange (s : State) (n : Nat) : Prop := s.params.addrMode = .wrap12 ∨ n = 0 ∨ s.i.toNat + n ≤ 0x1000

end Sys2Proof.Machine
end

