-- ==== Sys2Proof/Certificates/Slice0/Obligations.lean ====
section
/-! DEFINITION. The statements for the provers, each from the numbered rules of spec/. At the level of one instruction, `s` is the state an
instruction runs in: PC already holds its address + 2 (30_encoding R321). -/

open Sys2Proof Sys2Proof.Machine

/-! Encoding -/

/-- Words written out from the encodings of R301 to R310, one or more per family, and words that no table maps.
The selector values are the spec's general knowledge but for 6XNN and 8XY4 (log entry 5). -/
def Obligations.KnownWordsDecode : Prop :=
  decode 0x00E0 = .ok (.cls 0x0E) ∧ decode 0xD125 = .ok (.drw 1 2 5) ∧
  decode 0x00EE = .ok (.ret 0x0E) ∧ decode 0x1ABC = .ok (.jp 0xABC) ∧ decode 0x2ABC = .ok (.call 0xABC) ∧
  decode 0x5127 = .ok (.seReg 1 2 7) ∧ decode 0xBFFF = .ok (.jpV0 0xFFF) ∧
  decode 0x610A = .ok (.ldImm 1 0x0A) ∧ decode 0xC30F = .ok (.rnd 3 0x0F) ∧
  decode 0x8014 = .ok (.add 0 1) ∧ decode 0x840E = .ok (.shl 4 0) ∧
  decode 0xE59E = .ok (.skp 5 9) ∧ decode 0xE191 = .ok (.sknp 1 9) ∧ decode 0xF50A = .ok (.ldVxK 5) ∧
  decode 0xF255 = .ok (.ldMemVx 2) ∧ decode 0xFF65 = .ok (.ldVxMem 0xF) ∧
  decode 0x0120 = .ok (.cls 0x12) ∧ decode 0x0FFE = .ok (.ret 0xFF) ∧
  decode 0x0001 = .error .unmapped0 ∧ decode 0x8128 = .error .unmapped8 ∧
  decode 0xE19F = .error .unmappedE ∧ decode 0xF3FF = .error .unmappedF ∧
  decodeBytes [0x80, 0x14, 0x00] = .ok (.add 0 1, [0x00])

/-- Decoding the encoding of any instruction gives it back, as a word and as the two bytes memory holds, with the rest of the bytes left
over: no operand bit is dropped, nor a bit the decoder does not examine (that the model keeps those is log entry 4). -/
def Obligations.DecodeInvertsEncode : Prop :=
  ∀ (i : Instr) (rest : List Byte), decode (encode i) = .ok i ∧ decodeBytes (encodeBytes i ++ rest) = .ok (i, rest)

/-- The other direction: every word that decodes is the encoding of what it decodes to. For the standard words this follows from the tables
of R304 to R309; for the other words of R310 it is the model's choice, not a rule of the spec: the constructors keep the bits that decode
does not examine (log entry 4, DESIGN CHOICE), where an assembler of R316 emits the standard word. -/
def Obligations.EncodeInvertsDecode : Prop :=
  ∀ (w : Word) (i : Instr), decode w = .ok i → encode i = w

/-- The unmapped words are exactly those of R311's table (an inference the spec marks as derived). -/
def Obligations.UnmappedWordsExactly : Prop :=
  ∀ w : Word, (∃ e, decode w = .error e) ↔
    (w.toNat / 4096 = 0x0 ∧ w.toNat % 16 ≠ 0x0 ∧ w.toNat % 16 ≠ 0xE) ∨
    (w.toNat / 4096 = 0x8 ∧ 0x8 ≤ w.toNat % 16 ∧ w.toNat % 16 ≠ 0xE) ∨
    (w.toNat / 4096 = 0xE ∧ w.toNat % 16 ≠ 0x1 ∧ w.toNat % 16 ≠ 0xE) ∨
    (w.toNat / 4096 = 0xF ∧ w.toNat % 256 ∉ [0x07, 0x0A, 0x15, 0x18, 0x1E, 0x29, 0x33, 0x55, 0x65])

/-- The decoder does not examine op[11:4] in family 0x0, op[3:0] in families 0x5 and 0x9, op[7:4] in family 0xE (R310, derived): every
word of these selectors decodes to the one instruction. -/
def Obligations.UnexaminedBitsDecodeAlike : Prop :=
  ∀ w : Word,
    (w.toNat / 4096 = 0x0 → w.toNat % 16 = 0x0 → ∃ m, decode w = .ok (.cls m)) ∧
    (w.toNat / 4096 = 0x0 → w.toNat % 16 = 0xE → ∃ m, decode w = .ok (.ret m)) ∧
    (w.toNat / 4096 = 0x5 → ∃ x y n, decode w = .ok (.seReg x y n) ∧
      x.toNat = w.toNat / 256 % 16 ∧ y.toNat = w.toNat / 16 % 16) ∧
    (w.toNat / 4096 = 0x9 → ∃ x y n, decode w = .ok (.sneReg x y n) ∧
      x.toNat = w.toNat / 256 % 16 ∧ y.toNat = w.toNat / 16 % 16) ∧
    (w.toNat / 4096 = 0xE → w.toNat % 16 = 0xE → ∃ x m, decode w = .ok (.skp x m) ∧ x.toNat = w.toNat / 256 % 16) ∧
    (w.toNat / 4096 = 0xE → w.toNat % 16 = 0x1 → ∃ x m, decode w = .ok (.sknp x m) ∧ x.toNat = w.toNat / 256 % 16)

/-- The bits that the constructors keep without a meaning (R310; the Y field of the shifts, R558, R560) change nothing: two instructions
that differ only in them leave the same state, but for FAULT_OP where they fault (log entry 4). -/
def Obligations.IgnoredBitsDoNotMatter : Prop :=
  ∀ (x y a b : Nibble) (m n : Byte) (s : State),
    exec (.cls m) s = exec (.cls n) s ∧
    exec (.seReg x y a) s = exec (.seReg x y b) s ∧ exec (.sneReg x y a) s = exec (.sneReg x y b) s ∧
    exec (.shr x a) s = exec (.shr x b) s ∧ exec (.shl x a) s = exec (.shl x b) s ∧
    (∃ t u, exec (.ret m) s = .next t ∧ exec (.ret n) s = .next u ∧ u = { t with faultOp := u.faultOp }) ∧
    (∃ t u, exec (.skp x a) s = .next t ∧ exec (.skp x b) s = .next u ∧ u = { t with faultOp := u.faultOp }) ∧
    (∃ t u, exec (.sknp x a) s = .next t ∧ exec (.sknp x b) s = .next u ∧ u = { t with faultOp := u.faultOp })

/-! The step -/

/-- A step of a core without a latched fault runs the instruction that the bytes at PC decode to, with PC already moved past it (R320,
R321); then, if no fault was raised, the timers tick (R323) and the step's own inputs are used up (log entry 2). -/
def Obligations.StepRunsDecodedInstruction : Prop :=
  ∀ (s : State) (w : Word) (i : Instr), s.fault = 0 → s.fetchWord = .ok w → decode w = .ok i →
    s.skip = { s with pc := s.pc + 2 } ∧
    step s = finishOut (exec i s.skip) ∧
    ∀ t, exec i s.skip = .next t → step s = .next (if t.fault = 0 then t.timerTick.nextInputs else t)

/-- The fetch reads the two bytes at PC and PC + 1, the high byte first, at odd and even PC alike (R205, R206, R207); with
ADDR_MODE = wrap12 it always succeeds, each address modulo 4096 (R203). -/
def Obligations.FetchIsBigEndian : Prop :=
  ∀ s : State, s.params.addrMode = .wrap12 ∨ s.pc.toNat ≤ 0xFFE →
    ∃ w, s.fetchWord = .ok w ∧
      w.toNat = 256 * (s.memByte (s.pc.toNat % 4096)).toNat + (s.memByte ((s.pc.toNat + 1) % 4096)).toNat

/-- With ADDR_MODE = fault a fetch at PC above 0xFFE faults: code 4, FAULT_OP 0, FAULT_INFO the first address above 0xFFF; nothing else
changes. -/
def Obligations.FetchOutOfRangeFaults : Prop :=
  ∀ s : State, s.fault = 0 → s.params.addrMode = .fault → 0xFFE < s.pc.toNat →
    step s = .next { s with
      fault := 4, faultPc := s.pc, faultOp := 0,
      faultInfo := BitVec.ofNat 17 (if s.pc.toNat > 0xFFF then s.pc.toNat else s.pc.toNat + 1) }

/-- A fetched word that no table maps raises UnknownInstruction: code 1, FAULT_OP the word, FAULT_INFO 0; nothing else changes. -/
def Obligations.UnmappedWordFaults : Prop :=
  ∀ (s : State) (w : Word) (e : DecodeError), s.fault = 0 → s.fetchWord = .ok w → decode w = .error e →
    step s = .next { s with fault := 1, faultPc := s.pc, faultOp := w, faultInfo := 0 }

/-- R712: while a fault is latched every step returns it and changes nothing, not even the timers. -/
def Obligations.LatchedFaultStopsTheCore : Prop :=
  ∀ s : State, s.fault ≠ 0 → ∃ t, step s = .next t ∧ t = s ∧ t.stepResult = .fault s.fault

/-- R710: a step that raises a fault leaves the state before it but for the four fault registers: FAULT the code, FAULT_PC the PC at the
start, FAULT_OP the word (0 if it was not fetched), FAULT_INFO the fault's detail; the step returns Fault(code). -/
def Obligations.FaultEntryDiscardsTheStep : Prop :=
  ∀ s t : State, s.fault = 0 → step s = .next t → t.fault ≠ 0 →
    ∃ (f : Fault) (op : Word),
      t = { s with fault := f.code, faultPc := s.pc, faultOp := op, faultInfo := f.info } ∧
      (∀ w, s.fetchWord = .ok w → op = w) ∧ (∀ g, s.fetchWord = .error g → op = 0 ∧ f = g) ∧
      t.stepResult = .fault f.code

/-- R700, R713: after a successful fetch and decode, a step takes exactly the fault of the instruction's own check (`ownFault`, written from
the table of R700), and takes none where that check passes. -/
def Obligations.InstructionFaultsExactly : Prop :=
  ∀ (s : State) (w : Word) (i : Instr), s.fault = 0 → s.fetchWord = .ok w → decode w = .ok i →
    (∀ f, ownFault i s = some f →
      step s = .next { s with fault := f.code, faultPc := s.pc, faultOp := w, faultInfo := f.info }) ∧
    (ownFault i s = none →
      ∃ t, step s = .next t ∧ t.fault = 0 ∧ t.faultPc = s.faultPc ∧ t.faultOp = s.faultOp ∧ t.faultInfo = s.faultInfo)

/-- Every step completes in a next state, and so does every instruction: nothing stops the model (R322, R830, R712). -/
def Obligations.EveryStepCompletes : Prop :=
  (∀ s : State, ∃ t, step s = .next t) ∧ ∀ (i : Instr) (s : State), ∃ t, exec i s = .next t

/-- In every step that takes no fault each timer ends one below the value the instruction left in it, never below 0 (R740). FX15 and FX18
leave V[X] there before the tick (the spec derives the step's result in R605, R606); no other instruction writes a timer (R111). A faulting
step and a step of a faulted core leave both (R711, derived by the spec; R712). -/
def Obligations.TimersTickEveryStep : Prop :=
  ∀ s t : State, step s = .next t →
    (t.fault = 0 → ∀ (w : Word) (i : Instr), s.fetchWord = .ok w → decode w = .ok i →
      (∀ x, i = .ldDtVx x → t.dt.toNat = (s.getV x).toNat - 1) ∧ ((∀ x, i ≠ .ldDtVx x) → t.dt.toNat = s.dt.toNat - 1) ∧
      (∀ x, i = .ldStVx x → t.st.toNat = (s.getV x).toNat - 1) ∧ ((∀ x, i ≠ .ldStVx x) → t.st.toNat = s.st.toNat - 1)) ∧
    (t.fault ≠ 0 → t.dt = s.dt ∧ t.st = s.st)

/-- R741: after n steps none of which rewrites a timer, the timer has gone down by n, clamped at 0; after v or more steps it reads 0. -/
def Obligations.TimersCountDownAndStay : Prop :=
  ∀ (n : Nat) (s t : State),
    (RunsQuietly keepsDt n s t → t.dt.toNat = s.dt.toNat - n ∧ (s.dt.toNat ≤ n → t.dt = 0)) ∧
    (RunsQuietly keepsSt n s t → t.st.toNat = s.st.toNat - n ∧ (s.st.toNat ≤ n → t.st = 0))

/-! Invariants -/

/-- The invariant holds right after reset. -/
def Obligations.ResetMeetsInvariant : Prop := State.reset.Inv

/-- Every step keeps the invariant, from every state that meets it: memory stays in its canonical form; with ADDR_MODE = fault PC never
passes 0x10FE (R105, derived) and no return address passes 0x1000; the fault status is always one that a row of R700 leaves. -/
def Obligations.StepKeepsInvariant : Prop :=
  ∀ s t : State, s.Inv → step s = .next t → t.Inv

/-- The host's transactions keep the invariant: reset and load from every state, key writes and a named random byte from every state that
meets it (the named byte is the model's form of the step's input, log entry 2). -/
def Obligations.HostKeepsInvariant : Prop :=
  ∀ (s : State) (bytes : List Byte) (k : Nibble) (p : Bool) (b : Byte),
    s.doReset.Inv ∧ (bytes.length ≤ 3584 → (s.load bytes).2.Inv) ∧
    (s.Inv → (s.load bytes).2.Inv ∧ (s.setKey k p).Inv ∧ (s.withRnd b).Inv)

/-! Frames over the whole instruction set -/

/-- Every instruction, in every state, either changes only what its rule names (`footprint`: every other register, stack entry, timer,
pixel, byte of memory, key and fault register is as before), or takes the fault of its own check, which leaves everything but the fault
registers as it was before the step (PC back at the instruction). -/
def Obligations.InstructionsChangeOnlyTheirFootprint : Prop :=
  ∀ (i : Instr) (s t : State), exec i s = .next t →
    (ownFault i s = none ∧ Frame (footprint i s) s t) ∨
    ∃ f, ownFault i s = some f ∧
      t = { s with pc := s.pc - 2, fault := f.code, faultPc := s.pc - 2, faultOp := encode i, faultInfo := f.info }

/-- Memory changes only under FX33 and FX55, and only in the bytes they store to (R208). -/
def Obligations.OnlyStoresChangeMemory : Prop :=
  ∀ (s t : State) (a : Nat), step s = .next t → t.memByte a ≠ s.memByte a →
    ∃ w x, s.fetchWord = .ok w ∧
      ((decode w = .ok (.ldBVx x) ∧ a ∈ s.blockTouched 3) ∨
       (decode w = .ok (.ldMemVx x) ∧ a ∈ s.blockTouched (x.toNat + 1)))

/-- The font stays as it is over any run none of whose FX33 and FX55 writes lands in 0x050..0x09F (R217). -/
def Obligations.FontSurvivesRuns : Prop :=
  ∀ (n : Nat) (s t : State), RunsQuietly sparesFont n s t → ∀ a, 0x50 ≤ a → a < 0xA0 → t.memByte a = s.memByte a

/-- No step writes the keypad (R116) or changes a parameter (R9; that they stand in State is log entry 1). -/
def Obligations.StepsLeaveKeypadAndParameters : Prop :=
  ∀ s t : State, step s = .next t → (∀ k, t.key k = s.key k) ∧ t.params = s.params

/-- VF changes only under the flag writers, DRW, and instructions whose destination is VF (R101). -/
def Obligations.OnlyListedInstructionsChangeVf : Prop :=
  ∀ (i : Instr) (s t : State), exec i s = .next t → t.getV 0xF#4 ≠ s.getV 0xF#4 → writesVf i = true

/-! Display -/

/-- R401: CLS turns every pixel off and changes nothing else. -/
def Obligations.ClearScreenTurnsAllOff : Prop :=
  ∀ (ign : Byte) (s : State), ∃ t, exec (.cls ign) s = .next t ∧
    (∀ x y, x < 64 → y < 32 → t.pixel x y = false) ∧ Frame { fb := true } s t

/-- R402: DRW toggles exactly the pixels under a set sprite bit, wrapping on both axes, from the position read before VF is cleared; VF is 1
exactly when such a pixel was lit; nothing else changes. Where an address of the sprite is out of range the draw takes AddressOutOfRange
with the lowest such address, and nothing is drawn. -/
def Obligations.DrawTogglesUnderTheSprite : Prop :=
  ∀ (x y n : Nibble) (s : State),
    (s.InRange n.toNat →
      ∃ t, exec (.drw x y n) s = .next t ∧
        (∀ a b, a < 64 → b < 32 →
          t.pixel a b = (s.pixel a b ^^ s.underSprite n.toNat ((s.getV x).toNat % 64) ((s.getV y).toNat % 32) a b)) ∧
        ((∃ a b, a < 64 ∧ b < 32 ∧ s.pixel a b = true ∧
            s.underSprite n.toNat ((s.getV x).toNat % 64) ((s.getV y).toNat % 32) a b = true) → t.getV 0xF#4 = 1) ∧
        ((∀ a b, a < 64 → b < 32 → s.pixel a b = true →
            s.underSprite n.toNat ((s.getV x).toNat % 64) ((s.getV y).toNat % 32) a b = false) → t.getV 0xF#4 = 0) ∧
        Frame { regs := [0xF#4], fb := true } s t) ∧
    (¬ s.InRange n.toNat →
      exec (.drw x y n) s = .next { s with
        pc := s.pc - 2, fault := 4, faultPc := s.pc - 2, faultOp := encode (.drw x y n),
        faultInfo := BitVec.ofNat 17 (max s.i.toNat 0x1000) })

/-- R404: two consecutive steps that run the same DXYN word with X and Y not F restore every pixel, and the second leaves VF = 1 exactly
when the first turned at least one pixel on. -/
def Obligations.DrawTwiceRestoresTheScreen : Prop :=
  ∀ (x y n : Nibble) (s t u : State), x ≠ 0xF#4 → y ≠ 0xF#4 →
    s.fault = 0 → s.fetchWord = .ok (encode (.drw x y n)) → step s = .next t → t.fault = 0 →
    t.fetchWord = .ok (encode (.drw x y n)) → step t = .next u → u.fault = 0 →
    (∀ a b, a < 64 → b < 32 → u.pixel a b = s.pixel a b) ∧
    (u.getV 0xF#4 = 1 ↔ ∃ a b, a < 64 ∧ b < 32 ∧ s.pixel a b = false ∧ t.pixel a b = true) ∧
    (u.getV 0xF#4 = 1 ∨ u.getV 0xF#4 = 0)

/-! Control transfer -/

/-- R452, R458: JP goes to NNN; JP V0 goes to NNN plus V0, the sum not reduced to 12 bits; no target is checked. -/
def Obligations.JumpsSetPc : Prop :=
  ∀ (nnn : Addr12) (s : State),
    (∃ t, exec (.jp nnn) s = .next t ∧ t.pc.toNat = nnn.toNat ∧ Frame { pc := true } s t) ∧
    (∃ t, exec (.jpV0 nnn) s = .next t ∧ t.pc.toNat = nnn.toNat + (s.getV 0#4).toNat ∧ Frame { pc := true } s t)

/-- R453: CALL pushes the address of the word after it, raises SP by one and goes to NNN; with SP = 16 it takes StackOverflow with
FAULT_INFO 16 and changes nothing else. -/
def Obligations.CallPushesReturnAddress : Prop :=
  ∀ (nnn : Addr12) (s : State),
    (∀ k : Fin 16, s.sp.val = k.val →
      ∃ t, exec (.call nnn) s = .next t ∧ t.stackAt k = s.pc ∧ t.sp.val = s.sp.val + 1 ∧ t.pc.toNat = nnn.toNat ∧
        Frame { pc := true, sp := true, stack := [k] } s t) ∧
    (s.sp.val = 16 →
      exec (.call nnn) s = .next { s with
        pc := s.pc - 2, fault := 2, faultPc := s.pc - 2, faultOp := encode (.call nnn), faultInfo := 16 })

/-- R451: RET lowers SP by one and goes to the entry there, as it is; every entry keeps its value; with SP = 0 it takes StackUnderflow with
FAULT_INFO 0 and changes nothing else. -/
def Obligations.ReturnPopsThePc : Prop :=
  ∀ (ign : Byte) (s : State),
    (∀ k : Fin 16, s.sp.val = k.val + 1 →
      ∃ t, exec (.ret ign) s = .next t ∧ t.sp.val = k.val ∧ t.pc = s.stackAt k ∧ Frame { pc := true, sp := true } s t) ∧
    (s.sp.val = 0 →
      exec (.ret ign) s = .next { s with
        pc := s.pc - 2, fault := 3, faultPc := s.pc - 2, faultOp := encode (.ret ign), faultInfo := 0 })

/-- A return takes back a call: control comes back to the word after the CALL with SP as it was, and of everything else only the entry
the call wrote is changed. -/
def Obligations.ReturnUndoesCall : Prop :=
  ∀ (nnn : Addr12) (ign : Byte) (s t : State) (k : Fin 16), s.sp.val = k.val → exec (.call nnn) s = .next t →
    ∃ u, exec (.ret ign) t = .next u ∧ u.pc = s.pc ∧ u.sp = s.sp ∧ Frame { stack := [k] } s u

/-- R454 to R457: each value skip adds 2 to PC exactly when its condition holds, and changes nothing else. -/
def Obligations.ValueSkipsCompare : Prop :=
  ∀ (x y ign : Nibble) (nn : Byte) (s : State),
    (∃ t, exec (.seImm x nn) s = .next t ∧ t.pc = (if s.getV x = nn then s.pc + 2 else s.pc) ∧ Frame { pc := true } s t) ∧
    (∃ t, exec (.sneImm x nn) s = .next t ∧ t.pc = (if s.getV x ≠ nn then s.pc + 2 else s.pc) ∧ Frame { pc := true } s t) ∧
    (∃ t, exec (.seReg x y ign) s = .next t ∧ t.pc = (if s.getV x = s.getV y then s.pc + 2 else s.pc) ∧
      Frame { pc := true } s t) ∧
    (∃ t, exec (.sneReg x y ign) s = .next t ∧ t.pc = (if s.getV x ≠ s.getV y then s.pc + 2 else s.pc) ∧
      Frame { pc := true } s t)

/-! Immediate -/

/-- R500, R501, R502: LD Vx, NN; ADD Vx, NN modulo 256 without a flag; LD I, NNN zero-extended. -/
def Obligations.ImmediatesLoadAndAdd : Prop :=
  ∀ (x : Nibble) (nn : Byte) (nnn : Addr12) (s : State),
    (∃ t, exec (.ldImm x nn) s = .next t ∧ t.getV x = nn ∧ Frame { regs := [x] } s t) ∧
    (∃ t, exec (.addImm x nn) s = .next t ∧ (t.getV x).toNat = ((s.getV x).toNat + nn.toNat) % 256 ∧ Frame { regs := [x] } s t) ∧
    (∃ t, exec (.ldI nnn) s = .next t ∧ t.i.toNat = nnn.toNat ∧ Frame { i := true } s t)

/-- RND ANDs the step's random byte with NN (R503), for every byte the host names; where it names none, the byte is some byte. That the
byte is named by `withRnd`, or left to a free value, is the model's form of the step's input (log entry 2, DESIGN CHOICE). -/
def Obligations.RandomByteIsMasked : Prop :=
  ∀ (x : Nibble) (nn b : Byte) (s : State),
    (∃ t, exec (.rnd x nn) (s.withRnd b) = .next t ∧ t.getV x = b &&& nn ∧ Frame { regs := [x] } (s.withRnd b) t) ∧
    (∃ t r, exec (.rnd x nn) s = .next t ∧ t.getV x = r &&& nn ∧ Frame { regs := [x] } s t)

/-! Register arithmetic -/

/-- R552 to R555: MOV, OR, AND, XOR write V[X] and no flag, whether or not X is F or X = Y. -/
def Obligations.LogicWritesNoFlag : Prop :=
  ∀ (x y : Nibble) (s : State),
    (∃ t, exec (.mov x y) s = .next t ∧ t.getV x = s.getV y ∧ Frame { regs := [x] } s t) ∧
    (∃ t, exec (.or x y) s = .next t ∧ t.getV x = s.getV x ||| s.getV y ∧ Frame { regs := [x] } s t) ∧
    (∃ t, exec (.and x y) s = .next t ∧ t.getV x = s.getV x &&& s.getV y ∧ Frame { regs := [x] } s t) ∧
    (∃ t, exec (.xor x y) s = .next t ∧ t.getV x = s.getV x ^^^ s.getV y ∧ Frame { regs := [x] } s t)

/-- R556: ADD leaves the sum modulo 256 in V[X], X = F included, and for X other than F the carry in VF. -/
def Obligations.AddSetsCarry : Prop :=
  ∀ (x y : Nibble) (s : State),
    ∃ t, exec (.add x y) s = .next t ∧
      (t.getV x).toNat = ((s.getV x).toNat + (s.getV y).toNat) % 256 ∧
      (x ≠ 0xF#4 → t.getV 0xF#4 = if (s.getV x).toNat + (s.getV y).toNat > 255 then 1 else 0) ∧
      Frame { regs := [x, 0xF#4] } s t

/-- R557, R559, with R551: SUB and SUBN leave the difference modulo 256 in V[X], and for X other than F the flag in VF, 1 when the minuend
is strictly greater. With VF_ALIAS = draw this is said of the cases R562 does not open (X and Y not F). -/
def Obligations.SubtractsSetNoBorrow : Prop :=
  ∀ (x y : Nibble) (s : State), s.params.vfAlias = .latched ∨ (x ≠ 0xF#4 ∧ y ≠ 0xF#4) →
    (∃ t, exec (.sub x y) s = .next t ∧
      (t.getV x).toNat = ((s.getV x).toNat + 256 - (s.getV y).toNat) % 256 ∧
      (x ≠ 0xF#4 → t.getV 0xF#4 = if (s.getV x).toNat > (s.getV y).toNat then 1 else 0) ∧
      Frame { regs := [x, 0xF#4] } s t) ∧
    (∃ t, exec (.subn x y) s = .next t ∧
      (t.getV x).toNat = ((s.getV y).toNat + 256 - (s.getV x).toNat) % 256 ∧
      (x ≠ 0xF#4 → t.getV 0xF#4 = if (s.getV y).toNat > (s.getV x).toNat then 1 else 0) ∧
      Frame { regs := [x, 0xF#4] } s t)

/-- R558, R560, with R551: SHR halves and SHL doubles V[X] modulo 256, whatever Y is, and for X other than F VF is the bit shifted out.
With VF_ALIAS = draw this is said of the cases R562 does not open (X not F). -/
def Obligations.ShiftsMoveOneBit : Prop :=
  ∀ (x y : Nibble) (s : State), s.params.vfAlias = .latched ∨ x ≠ 0xF#4 →
    (∃ t, exec (.shr x y) s = .next t ∧
      (t.getV x).toNat = (s.getV x).toNat / 2 ∧
      (x ≠ 0xF#4 → (t.getV 0xF#4).toNat = (s.getV x).toNat % 2) ∧ Frame { regs := [x, 0xF#4] } s t) ∧
    (∃ t, exec (.shl x y) s = .next t ∧
      (t.getV x).toNat = 2 * (s.getV x).toNat % 256 ∧
      (x ≠ 0xF#4 → (t.getV 0xF#4).toNat = (s.getV x).toNat / 128) ∧ Frame { regs := [x, 0xF#4] } s t)

/-- R562: with VF_ALIAS = draw the open cases of SUB, SUBN, SHR and SHL still complete, and change at most V[X] and VF; nothing is said of
the two values (free values, log entry 3). -/
def Obligations.OpenAliasCasesComplete : Prop :=
  ∀ (x y : Nibble) (s : State), s.params.vfAlias = .draw →
    (x = 0xF#4 ∨ y = 0xF#4 →
      (∃ t, exec (.sub x y) s = .next t ∧ Frame { regs := [x, 0xF#4] } s t) ∧
      (∃ t, exec (.subn x y) s = .next t ∧ Frame { regs := [x, 0xF#4] } s t)) ∧
    (x = 0xF#4 →
      (∃ t, exec (.shr x y) s = .next t ∧ Frame { regs := [0xF#4] } s t) ∧
      (∃ t, exec (.shl x y) s = .next t ∧ Frame { regs := [0xF#4] } s t))

/-! Keypad and timers -/

/-- R600, R601, R602: with V[X] at most 15 the key skips add 2 to PC exactly when the key is pressed (SKP), not pressed (SKNP); with a
larger V[X] both take KeyIndexOutOfRange with FAULT_INFO V[X] and change nothing else. -/
def Obligations.KeySkipsReadTheKey : Prop :=
  ∀ (x ign k : Nibble) (s : State),
    ((s.getV x).toNat = k.toNat →
      (∃ t, exec (.skp x ign) s = .next t ∧ t.pc = (if s.key k then s.pc + 2 else s.pc) ∧ Frame { pc := true } s t) ∧
      (∃ t, exec (.sknp x ign) s = .next t ∧ t.pc = (if s.key k then s.pc else s.pc + 2) ∧ Frame { pc := true } s t)) ∧
    ((s.getV x).toNat > 15 →
      exec (.skp x ign) s = .next { s with
        pc := s.pc - 2, fault := 5, faultPc := s.pc - 2, faultOp := encode (.skp x ign),
        faultInfo := BitVec.ofNat 17 (s.getV x).toNat } ∧
      exec (.sknp x ign) s = .next { s with
        pc := s.pc - 2, fault := 5, faultPc := s.pc - 2, faultOp := encode (.sknp x ign),
        faultInfo := BitVec.ofNat 17 (s.getV x).toNat })

/-- R603, R605, R606: the moves between V[X] and the timers. -/
def Obligations.TimerMovesCopy : Prop :=
  ∀ (x : Nibble) (s : State),
    (∃ t, exec (.ldVxDt x) s = .next t ∧ t.getV x = s.dt ∧ Frame { regs := [x] } s t) ∧
    (∃ t, exec (.ldDtVx x) s = .next t ∧ t.dt = s.getV x ∧ Frame { dt := true } s t) ∧
    (∃ t, exec (.ldStVx x) s = .next t ∧ t.st = s.getV x ∧ Frame { st := true } s t)

/-- R604: with no key pressed FX0A moves PC back by 2 and changes nothing else; else it writes the lowest pressed key to V[X] and leaves
PC. -/
def Obligations.KeyWaitTakesLowestKey : Prop :=
  ∀ (x : Nibble) (s : State),
    ((∀ k, s.key k = false) → ∃ t, exec (.ldVxK x) s = .next t ∧ t.pc = s.pc - 2 ∧ Frame { pc := true } s t) ∧
    (∀ k, s.key k = true → (∀ j, j.toNat < k.toNat → s.key j = false) →
      ∃ t, exec (.ldVxK x) s = .next t ∧ (t.getV x).toNat = k.toNat ∧ Frame { regs := [x] } s t)

/-! Index and memory -/

/-- R650, R651: ADD I, Vx modulo 2^16 with no flag; LD F, Vx without a mask on V[X]. -/
def Obligations.IndexArithmetic : Prop :=
  ∀ (x : Nibble) (s : State),
    (∃ t, exec (.addIVx x) s = .next t ∧ t.i.toNat = (s.i.toNat + (s.getV x).toNat) % 65536 ∧ Frame { i := true } s t) ∧
    (∃ t, exec (.ldFVx x) s = .next t ∧ t.i.toNat = 0x50 + 5 * (s.getV x).toNat ∧ Frame { i := true } s t)

/-- R652: LD B, Vx stores the hundreds, tens and ones of V[X] at I, I+1, I+2 (checked addresses) and changes nothing else; where one of the
three addresses is out of range it takes AddressOutOfRange with the lowest such address and writes no byte. -/
def Obligations.BcdStoresThreeDigits : Prop :=
  ∀ (x : Nibble) (s : State), s.MemOk →
    (s.InRange 3 →
      ∃ t, exec (.ldBVx x) s = .next t ∧
        (t.memByte (s.i.toNat % 4096)).toNat = (s.getV x).toNat / 100 ∧
        (t.memByte ((s.i.toNat + 1) % 4096)).toNat = (s.getV x).toNat / 10 % 10 ∧
        (t.memByte ((s.i.toNat + 2) % 4096)).toNat = (s.getV x).toNat % 10 ∧
        (∀ a ∈ s.blockTouched 3, ∃ k < 3, a = (s.i.toNat + k) % 4096) ∧ Frame { mem := s.blockTouched 3 } s t) ∧
    (¬ s.InRange 3 →
      exec (.ldBVx x) s = .next { s with
        pc := s.pc - 2, fault := 4, faultPc := s.pc - 2, faultOp := encode (.ldBVx x),
        faultInfo := BitVec.ofNat 17 (max s.i.toNat 0x1000) })

/-- R653: LD [I], Vx stores V0..Vx at I, I+1, ... (checked addresses), leaves I, and changes nothing else; where one of the addresses is out
of range it takes AddressOutOfRange with the lowest such address and writes no byte. -/
def Obligations.StoreRegistersAtIndex : Prop :=
  ∀ (x : Nibble) (s : State), s.MemOk →
    (s.InRange (x.toNat + 1) →
      ∃ t, exec (.ldMemVx x) s = .next t ∧
        (∀ k : Nibble, k.toNat ≤ x.toNat → t.memByte ((s.i.toNat + k.toNat) % 4096) = s.getV k) ∧
        (∀ a ∈ s.blockTouched (x.toNat + 1), ∃ k ≤ x.toNat, a = (s.i.toNat + k) % 4096) ∧
        Frame { mem := s.blockTouched (x.toNat + 1) } s t) ∧
    (¬ s.InRange (x.toNat + 1) →
      exec (.ldMemVx x) s = .next { s with
        pc := s.pc - 2, fault := 4, faultPc := s.pc - 2, faultOp := encode (.ldMemVx x),
        faultInfo := BitVec.ofNat 17 (max s.i.toNat 0x1000) })

/-- R654: LD Vx, [I] loads V0..Vx from I, I+1, ... (checked addresses), leaves I and the registers above X, and changes nothing else; where
one of the addresses is out of range it takes AddressOutOfRange with the lowest such address and writes no register. -/
def Obligations.LoadRegistersFromIndex : Prop :=
  ∀ (x : Nibble) (s : State),
    (s.InRange (x.toNat + 1) →
      ∃ t, exec (.ldVxMem x) s = .next t ∧
        (∀ k : Nibble, k.toNat ≤ x.toNat → t.getV k = s.memByte ((s.i.toNat + k.toNat) % 4096)) ∧
        (∀ k : Nibble, x.toNat < k.toNat → t.getV k = s.getV k) ∧
        Frame { regs := (List.range (x.toNat + 1)).map (BitVec.ofNat 4) } s t) ∧
    (¬ s.InRange (x.toNat + 1) →
      exec (.ldVxMem x) s = .next { s with
        pc := s.pc - 2, fault := 4, faultPc := s.pc - 2, faultOp := encode (.ldVxMem x),
        faultInfo := BitVec.ofNat 17 (max s.i.toNat 0x1000) })

/-- What FX55 stored, FX65 with the same X and I loads back, in any later state with that memory. -/
def Obligations.StoredRegistersLoadBack : Prop :=
  ∀ (x : Nibble) (s t u : State), s.MemOk → s.InRange (x.toNat + 1) → exec (.ldMemVx x) s = .next t →
    u.mem = t.mem → u.params = t.params → u.i = s.i →
    ∃ r, exec (.ldVxMem x) u = .next r ∧ ∀ k : Nibble, k.toNat ≤ x.toNat → r.getV k = s.getV k

/-- R214: the bytes that FX55 stores are the bytes a later fetch at that address reads; no flush is needed. -/
def Obligations.FetchSeesStoredBytes : Prop :=
  ∀ (x : Nibble) (s t u : State), s.MemOk → s.InRange (x.toNat + 1) → 1 ≤ x.toNat → exec (.ldMemVx x) s = .next t →
    u.mem = t.mem → u.params = t.params → u.pc = s.i →
    ∃ w, u.fetchWord = .ok w ∧ w.toNat = 256 * (s.getV 0#4).toNat + (s.getV 1#4).toNat

/-- R203: an address up to 0xFFF is itself; a larger one faults with itself as the detail, or is reduced modulo 4096. -/
def Obligations.AddressCheckFaultsOrWraps : Prop :=
  ∀ a : Nat, (∀ m, a ≤ 0xFFF → check m a = .ok a) ∧
    (0xFFF < a → check .fault a = .error (.addressOutOfRange a) ∧ check .wrap12 a = .ok (a % 4096))

/-! Reset, load and the host's surfaces -/

/-- Reset, from any state, sets every element to its reset value (R120, R800); doing it twice is doing it once (R801). That the parameters
stand in State and stay (log entry 1, DESIGN CHOICE), and that `State.reset` is itself a fixed point, its `rnd` and `draws` at the values of
log entry 2 (DESIGN CHOICE), are the model's choices. -/
def Obligations.ResetSetsEveryElement : Prop :=
  ∀ s : State,
    (∀ r, s.doReset.getV r = 0) ∧ s.doReset.pc = 0x200 ∧ s.doReset.i = 0 ∧ s.doReset.sp = 0 ∧
    (∀ k, s.doReset.stackAt k = 0) ∧ s.doReset.dt = 0 ∧ s.doReset.st = 0 ∧
    (∀ a (h : 0x50 ≤ a ∧ a < 0xA0), s.doReset.memByte a = s.params.font[a - 0x50]'(by omega)) ∧
    (∀ a, ¬ (0x50 ≤ a ∧ a < 0xA0) → s.doReset.memByte a = 0) ∧
    (∀ x y, s.doReset.pixel x y = false) ∧ (∀ k, s.doReset.key k = false) ∧
    s.doReset.fault = 0 ∧ s.doReset.faultPc = 0 ∧ s.doReset.faultOp = 0 ∧ s.doReset.faultInfo = 0 ∧
    s.doReset.params = s.params ∧ s.doReset.doReset = s.doReset ∧ State.reset.doReset = State.reset

/-- R803: a load of at most 3584 bytes answers Ok and leaves the reset state with exactly those bytes from 0x200 on. -/
def Obligations.LoadCopiesTheProgram : Prop :=
  ∀ (s : State) (bytes : List Byte), bytes.length ≤ 3584 →
    ∃ t, s.load bytes = (.ok, t) ∧
      (∀ (k : Nat) (h : k < bytes.length), t.memByte (0x200 + k) = bytes[k]) ∧
      (∀ a, a < 0x200 ∨ 0x200 + bytes.length ≤ a → t.memByte a = s.doReset.memByte a) ∧
      t = { s.doReset with mem := t.mem }

/-- Loading nothing is a reset (R805, which the spec derives from R803). -/
def Obligations.LoadNothingIsReset : Prop :=
  ∀ s : State, s.load [] = (.ok, s.doReset)

/-- R804: a load of more than 3584 bytes answers ProgramTooLarge and changes nothing; with LOAD_FAIL_RESETS it resets first. -/
def Obligations.LoadTooLargeChangesNothing : Prop :=
  ∀ (s : State) (bytes : List Byte), 3584 < bytes.length →
    (s.load bytes).1 = .programTooLarge ∧
    (s.params.loadFailResets = false → (s.load bytes).2 = s) ∧
    (s.params.loadFailResets = true → (s.load bytes).2 = s.doReset)

/-- The display surface is the 2048 pixels, row-major: element y*64 + x is FB[y][x] (R114, R141). -/
def Obligations.DisplayIsRowMajor : Prop :=
  ∀ s : State, s.display.length = 2048 ∧ ∀ x y, x < 64 → y < 32 → s.display[y * 64 + x]? = some (s.pixel x y)

/-- The host sets and clears single keys between steps; nothing else changes (R141). -/
def Obligations.KeypadWritesOneKey : Prop :=
  ∀ (s : State) (k j : Nibble) (p : Bool),
    (s.setKey k p).key j = (if j = k then p else s.key j) ∧ s.setKey k p = { s with keys := (s.setKey k p).keys }

/-- The host observes the core through R141's surfaces, whole, and through nothing else (R143, R761): two states look alike to it exactly
when their pixels, keys, sound timers and fault status are alike, whatever V, PC, I, SP, the stack, DT and memory hold. -/
def Obligations.HostSeesExactlyTheSurfaces : Prop :=
  ∀ s t : State, s.hostView = t.hostView ↔
    (∀ x y, x < 64 → y < 32 → s.pixel x y = t.pixel x y) ∧ (∀ k, s.key k = t.key k) ∧ s.st = t.st ∧
    s.fault = t.fault ∧ s.faultPc = t.faultPc ∧ s.faultOp = t.faultOp ∧ s.faultInfo = t.faultInfo

/-- Every action of the host completes, and its answer tells the host no more than the action and the surfaces after it do (R140, R761):
reset and a key write answer nothing, a load whether its bytes fit, a step Fault(FAULT) or, with FAULT = 0, Ok. -/
def Obligations.HostActionsAnswerWhatTheSurfacesShow : Prop :=
  ∀ (a : HostAction) (s : State), ∃ ans t, hostAct a s = .next (ans, t) ∧
    (a = .reset → ans = .nothing) ∧ (∀ k p, a = .setKey k p → ans = .nothing) ∧
    (∀ bytes, a = .load bytes → ans = .load (if bytes.length ≤ 3584 then .ok else .programTooLarge)) ∧
    (∀ rnd, a = .step rnd →
      ans = .step (if t.hostView.faultStatus.1 = 0 then .ok else .fault t.hostView.faultStatus.1))
end

