-- ==== Sys2Proof/Laws/Decode.lean ====
section
/-! SUPPORT. The fields of the words that the encoder builds, and of a word cut into its fields. -/

namespace Sys2Proof

variable (p x y n : Nibble) (nn mid : Byte) (nnn : Addr12)

@[simp] theorem opP_wordXYN : opP (wordXYN p x y n) = p := by
  ext i hi; simp [opP, wordXYN]; grind
@[simp] theorem opX_wordXYN : opX (wordXYN p x y n) = x := by
  ext i hi; simp [opX, wordXYN]; grind
@[simp] theorem opY_wordXYN : opY (wordXYN p x y n) = y := by
  ext i hi; simp [opY, wordXYN]; grind
@[simp] theorem opN_wordXYN : opN (wordXYN p x y n) = n := by
  ext i hi; simp [opN, wordXYN]; grind

@[simp] theorem opP_wordXNN : opP (wordXNN p x nn) = p := by
  ext i hi; simp [opP, wordXNN]; grind
@[simp] theorem opX_wordXNN : opX (wordXNN p x nn) = x := by
  ext i hi; simp [opX, wordXNN]; grind
@[simp] theorem opNN_wordXNN : opNN (wordXNN p x nn) = nn := by
  ext i hi; simp [opNN, wordXNN]; grind

@[simp] theorem opP_wordNNN : opP (wordNNN p nnn) = p := by
  ext i hi; simp [opP, wordNNN]; grind
@[simp] theorem opNNN_wordNNN : opNNN (wordNNN p nnn) = nnn := by
  ext i hi; simp [opNNN, wordNNN]; grind

@[simp] theorem opP_wordS : opP (wordS p mid n) = p := by
  ext i hi; simp [opP, wordS]; grind
@[simp] theorem opMid_wordS : opMid (wordS p mid n) = mid := by
  ext i hi; simp [opMid, wordS]; grind
@[simp] theorem opN_wordS : opN (wordS p mid n) = n := by
  ext i hi; simp [opN, wordS]; grind

@[simp] theorem wordOfBytes_high_low (w : Word) : wordOfBytes (highByte w) (lowByte w) = w := by
  ext i hi; simp [wordOfBytes, highByte, lowByte]; grind

/-- A word is its fields, in each of the formats of R303. -/
theorem wordXYN_fields (w : Word) : wordXYN (opP w) (opX w) (opY w) (opN w) = w := by
  ext i hi; simp [opP, opX, opY, opN, wordXYN]; grind
theorem wordXNN_fields (w : Word) : wordXNN (opP w) (opX w) (opNN w) = w := by
  ext i hi; simp [opP, opX, opNN, wordXNN]; grind
theorem wordNNN_fields (w : Word) : wordNNN (opP w) (opNNN w) = w := by
  ext i hi; simp [opP, opNNN, wordNNN]; grind
theorem wordS_fields (w : Word) : wordS (opP w) (opMid w) (opN w) = w := by
  ext i hi; simp [opP, opMid, opN, wordS]; grind

/-! The fields as numbers (R301). -/

theorem toNat_opP (w : Word) : (opP w).toNat = w.toNat / 4096 := by simp [opP, Nat.shiftRight_eq_div_pow]; omega
theorem toNat_opX (w : Word) : (opX w).toNat = w.toNat / 256 % 16 := by simp [opX, Nat.shiftRight_eq_div_pow]
theorem toNat_opY (w : Word) : (opY w).toNat = w.toNat / 16 % 16 := by simp [opY, Nat.shiftRight_eq_div_pow]
theorem toNat_opN (w : Word) : (opN w).toNat = w.toNat % 16 := by simp [opN]
theorem toNat_opNN (w : Word) : (opNN w).toNat = w.toNat % 256 := by simp [opNN]

/-- Two bytes read big-endian (R205, R206). -/
theorem toNat_wordOfBytes (hi lo : Byte) : (wordOfBytes hi lo).toNat = 256 * hi.toNat + lo.toNat := by
  simp only [wordOfBytes]
  erw [BitVec.toNat_append]
  rw [Nat.shiftLeft_eq, Nat.mul_comm, ← Nat.two_pow_add_eq_or_of_lt lo.isLt]

/-- The decoder's last arm is the primary selector 0xF. -/
theorem nibble_eq_F (p : Nibble) (h0 : p ≠ 0x0) (h1 : p ≠ 0x1) (h2 : p ≠ 0x2) (h3 : p ≠ 0x3) (h4 : p ≠ 0x4) (h5 : p ≠ 0x5)
    (h6 : p ≠ 0x6) (h7 : p ≠ 0x7) (h8 : p ≠ 0x8) (h9 : p ≠ 0x9) (hA : p ≠ 0xA) (hB : p ≠ 0xB) (hC : p ≠ 0xC) (hD : p ≠ 0xD)
    (hE : p ≠ 0xE) : p = 0xF := by
  bv_omega

end Sys2Proof
end

