-- ==== Sys2Proof/Laws/Memory.lean ====
section
/-! SUPPORT. The laws of memory: a read after a write, and every write keeps the canonical form. -/

namespace Sys2Proof.Machine

variable (bg : Nat → Byte)

@[simp] theorem Memory.read_nil (a : Nat) : Memory.read bg [] a = bg a := rfl

theorem Memory.wf_cons (a : Nat) (w : Byte) (m : Memory) :
    Memory.wf bg ((a, w) :: m) = true ↔
      a < 4096 ∧ w ≠ bg a ∧ (∀ c ∈ m, a < c.1) ∧ Memory.wf bg m = true := by
  simp [Memory.wf, and_assoc]

/-- An address below every cell reads as an unlisted address. -/
theorem Memory.read_of_lt (m : Memory) (a : Nat) (h : ∀ c ∈ m, a < c.1) : Memory.read bg m a = bg a := by
  induction m with
  | nil => rfl
  | cons c m ih =>
    obtain ⟨b, w⟩ := c
    have hb : a < b := h (b, w) (by simp)
    simp only [Memory.read, if_neg (Nat.ne_of_lt hb)]
    exact ih fun c hc => h c (by simp [hc])

theorem Memory.read_put_other (m : Memory) (a b : Nat) (x : Byte) (h : b ≠ a) :
    Memory.read bg (Memory.put bg a x m) b = Memory.read bg m b := by
  unfold Memory.put
  split
  · rfl
  · simp [Memory.read, h]

theorem Memory.read_put_same (m : Memory) (a : Nat) (x : Byte) (h : ∀ c ∈ m, a < c.1) :
    Memory.read bg (Memory.put bg a x m) a = x := by
  unfold Memory.put
  split
  · next hx => rw [Memory.read_of_lt bg m a h, hx]
  · simp [Memory.read]

/-- A write leaves every other address alone, in every memory. -/
theorem Memory.read_write_other (m : Memory) (a b : Nat) (x : Byte) (h : b ≠ a) :
    Memory.read bg (Memory.write bg m a x) b = Memory.read bg m b := by
  induction m with
  | nil => exact Memory.read_put_other bg [] a b x h
  | cons c m ih =>
    obtain ⟨e, w⟩ := c
    simp only [Memory.write]
    split
    · exact Memory.read_put_other bg _ a b x h
    · split
      · next he =>
        rw [Memory.read_put_other bg m a b x h]
        simp [Memory.read, he ▸ h]
      · simp only [Memory.read, ih]

/-- A read after a write to the same address gives the byte written, in a memory of canonical form. -/
theorem Memory.read_write_same (m : Memory) (a : Nat) (x : Byte) (hm : Memory.wf bg m = true) :
    Memory.read bg (Memory.write bg m a x) a = x := by
  induction m with
  | nil => exact Memory.read_put_same bg [] a x (by simp)
  | cons c m ih =>
    obtain ⟨e, w⟩ := c
    obtain ⟨-, -, hlt, hwf⟩ := (Memory.wf_cons bg e w m).1 hm
    simp only [Memory.write]
    split
    · next ha =>
      refine Memory.read_put_same bg _ a x ?_
      intro c hc
      rcases List.mem_cons.1 hc with rfl | hc
      · exact ha
      · exact Nat.lt_trans ha (hlt c hc)
    · split
      · next he => subst he; exact Memory.read_put_same bg m a x hlt
      · next he => simp only [Memory.read, if_neg he, ih hwf]

/-- The cells of a memory after a write are the old ones and perhaps the one written. -/
theorem Memory.mem_write (m : Memory) (a : Nat) (x : Byte) (c : Host.Cell) (hc : c ∈ Memory.write bg m a x) :
    c = (a, x) ∨ c ∈ m := by
  induction m with
  | nil =>
    simp only [Memory.write, Memory.put] at hc
    split at hc <;> simp_all
  | cons d m ih =>
    obtain ⟨e, w⟩ := d
    simp only [Memory.write, Memory.put] at hc
    split at hc
    · split at hc
      · exact .inr hc
      · exact List.mem_cons.1 hc
    · split at hc
      · split at hc
        · exact .inr (List.mem_cons_of_mem _ hc)
        · rcases List.mem_cons.1 hc with h | h
          · exact .inl h
          · exact .inr (List.mem_cons_of_mem _ h)
      · rcases List.mem_cons.1 hc with h | h
        · exact .inr (h ▸ List.mem_cons_self)
        · exact (ih h).imp_right (List.mem_cons_of_mem _)

theorem Memory.put_wf (m : Memory) (a : Nat) (x : Byte) (ha : a < 4096) (hlt : ∀ c ∈ m, a < c.1)
    (hm : Memory.wf bg m = true) : Memory.wf bg (Memory.put bg a x m) = true := by
  unfold Memory.put
  split
  · exact hm
  · next hx => exact (Memory.wf_cons bg a x m).2 ⟨ha, hx, hlt, hm⟩

/-- A write at an address of memory keeps the canonical form. -/
theorem Memory.write_wf (m : Memory) (a : Nat) (x : Byte) (ha : a < 4096) (hm : Memory.wf bg m = true) :
    Memory.wf bg (Memory.write bg m a x) = true := by
  induction m with
  | nil => exact Memory.put_wf bg [] a x ha (by simp) hm
  | cons c m ih =>
    obtain ⟨e, w⟩ := c
    obtain ⟨he, hw, hlt, hwf⟩ := (Memory.wf_cons bg e w m).1 hm
    simp only [Memory.write]
    split
    · next hae =>
      refine Memory.put_wf bg _ a x ha ?_ hm
      intro c hc
      rcases List.mem_cons.1 hc with rfl | hc
      · exact hae
      · exact Nat.lt_trans hae (hlt c hc)
    · split
      · next h => subst h; exact Memory.put_wf bg m a x ha hlt hwf
      · next hae hne =>
        refine (Memory.wf_cons bg e w _).2 ⟨he, hw, ?_, ih hwf⟩
        intro c hc
        rcases Memory.mem_write bg m a x c hc with rfl | hc
        · exact Nat.lt_of_le_of_ne (Nat.le_of_not_lt hae) (Ne.symm hne)
        · exact hlt c hc

/-- Memories of canonical form that read alike are equal: the form is canonical. -/
theorem Memory.ext_of_read (m n : Memory) (hm : Memory.wf bg m = true) (hn : Memory.wf bg n = true)
    (h : ∀ a, Memory.read bg m a = Memory.read bg n a) : m = n := by
  induction m generalizing n with
  | nil =>
    cases n with
    | nil => rfl
    | cons d n =>
      obtain ⟨b, w⟩ := d
      have := h b
      obtain ⟨-, hw, -, -⟩ := (Memory.wf_cons bg b w n).1 hn
      simp [Memory.read] at this
      exact absurd this.symm hw
  | cons c m ih =>
    obtain ⟨a, v⟩ := c
    obtain ⟨-, hv, hlt, hwf⟩ := (Memory.wf_cons bg a v m).1 hm
    cases n with
    | nil =>
      have := h a
      simp [Memory.read] at this
      exact absurd this hv
    | cons d n =>
      obtain ⟨b, w⟩ := d
      obtain ⟨-, hw, hlt', hwf'⟩ := (Memory.wf_cons bg b w n).1 hn
      have hab : a = b := by
        rcases Nat.lt_trichotomy a b with hl | he | hg
        · have h1 := h a
          rw [Memory.read_of_lt bg ((b, w) :: n) a (by
            intro c hc
            rcases List.mem_cons.1 hc with rfl | hc
            · exact hl
            · exact Nat.lt_trans hl (hlt' c hc))] at h1
          simp [Memory.read] at h1
          exact absurd h1 hv
        · exact he
        · have h1 := h b
          rw [Memory.read_of_lt bg ((a, v) :: m) b (by
            intro c hc
            rcases List.mem_cons.1 hc with rfl | hc
            · exact hg
            · exact Nat.lt_trans hg (hlt c hc))] at h1
          simp [Memory.read] at h1
          exact absurd h1.symm hw
      subst hab
      have hvw : v = w := by simpa [Memory.read] using h a
      subst hvw
      have : m = n := by
        refine ih n hwf hwf' ?_
        intro c
        by_cases hc : c = a
        · subst hc
          rw [Memory.read_of_lt bg m c hlt, Memory.read_of_lt bg n c hlt']
        · simpa [Memory.read, hc] using h c
      rw [this]

end Sys2Proof.Machine
end

