-- ==== Sys2Proof/Laws/State.lean ====
section
/-! SUPPORT. What each update of the state leaves in each field: one lemma per field per update, true by definition, so that no proof
unfolds a record update. -/

namespace Sys2Proof.Machine

variable (s : State)

/-! `State.setV` -/

@[simp] theorem State.setV_v (r : Nibble) (x : Byte) : (s.setV r x).v = s.v.set r.toNat x r.isLt := rfl
@[simp] theorem State.setV_pc (r : Nibble) (x : Byte) : (s.setV r x).pc = s.pc := rfl
@[simp] theorem State.setV_i (r : Nibble) (x : Byte) : (s.setV r x).i = s.i := rfl
@[simp] theorem State.setV_sp (r : Nibble) (x : Byte) : (s.setV r x).sp = s.sp := rfl
@[simp] theorem State.setV_stack (r : Nibble) (x : Byte) : (s.setV r x).stack = s.stack := rfl
@[simp] theorem State.setV_dt (r : Nibble) (x : Byte) : (s.setV r x).dt = s.dt := rfl
@[simp] theorem State.setV_st (r : Nibble) (x : Byte) : (s.setV r x).st = s.st := rfl
@[simp] theorem State.setV_mem (r : Nibble) (x : Byte) : (s.setV r x).mem = s.mem := rfl
@[simp] theorem State.setV_fb (r : Nibble) (x : Byte) : (s.setV r x).fb = s.fb := rfl
@[simp] theorem State.setV_keys (r : Nibble) (x : Byte) : (s.setV r x).keys = s.keys := rfl
@[simp] theorem State.setV_fault (r : Nibble) (x : Byte) : (s.setV r x).fault = s.fault := rfl
@[simp] theorem State.setV_faultPc (r : Nibble) (x : Byte) : (s.setV r x).faultPc = s.faultPc := rfl
@[simp] theorem State.setV_faultOp (r : Nibble) (x : Byte) : (s.setV r x).faultOp = s.faultOp := rfl
@[simp] theorem State.setV_faultInfo (r : Nibble) (x : Byte) : (s.setV r x).faultInfo = s.faultInfo := rfl
@[simp] theorem State.setV_params (r : Nibble) (x : Byte) : (s.setV r x).params = s.params := rfl
@[simp] theorem State.setV_rnd (r : Nibble) (x : Byte) : (s.setV r x).rnd = s.rnd := rfl
@[simp] theorem State.setV_draws (r : Nibble) (x : Byte) : (s.setV r x).draws = s.draws := rfl
@[simp] theorem State.setV_stackAt (r : Nibble) (x : Byte) (k : Fin 16) : (s.setV r x).stackAt k = s.stackAt k := rfl
@[simp] theorem State.setV_memByte (r : Nibble) (x : Byte) (b : Nat) : (s.setV r x).memByte b = s.memByte b := rfl
@[simp] theorem State.setV_pixel (r : Nibble) (x : Byte) (x' y' : Nat) : (s.setV r x).pixel x' y' = s.pixel x' y' := rfl
@[simp] theorem State.setV_key (r : Nibble) (x : Byte) (k' : Nibble) : (s.setV r x).key k' = s.key k' := rfl

/-! `State.setPc` -/

@[simp] theorem State.setPc_v (a : Word) : (s.setPc a).v = s.v := rfl
@[simp] theorem State.setPc_pc (a : Word) : (s.setPc a).pc = a := rfl
@[simp] theorem State.setPc_i (a : Word) : (s.setPc a).i = s.i := rfl
@[simp] theorem State.setPc_sp (a : Word) : (s.setPc a).sp = s.sp := rfl
@[simp] theorem State.setPc_stack (a : Word) : (s.setPc a).stack = s.stack := rfl
@[simp] theorem State.setPc_dt (a : Word) : (s.setPc a).dt = s.dt := rfl
@[simp] theorem State.setPc_st (a : Word) : (s.setPc a).st = s.st := rfl
@[simp] theorem State.setPc_mem (a : Word) : (s.setPc a).mem = s.mem := rfl
@[simp] theorem State.setPc_fb (a : Word) : (s.setPc a).fb = s.fb := rfl
@[simp] theorem State.setPc_keys (a : Word) : (s.setPc a).keys = s.keys := rfl
@[simp] theorem State.setPc_fault (a : Word) : (s.setPc a).fault = s.fault := rfl
@[simp] theorem State.setPc_faultPc (a : Word) : (s.setPc a).faultPc = s.faultPc := rfl
@[simp] theorem State.setPc_faultOp (a : Word) : (s.setPc a).faultOp = s.faultOp := rfl
@[simp] theorem State.setPc_faultInfo (a : Word) : (s.setPc a).faultInfo = s.faultInfo := rfl
@[simp] theorem State.setPc_params (a : Word) : (s.setPc a).params = s.params := rfl
@[simp] theorem State.setPc_rnd (a : Word) : (s.setPc a).rnd = s.rnd := rfl
@[simp] theorem State.setPc_draws (a : Word) : (s.setPc a).draws = s.draws := rfl
@[simp] theorem State.setPc_getV (a : Word) (q : Nibble) : (s.setPc a).getV q = s.getV q := rfl
@[simp] theorem State.setPc_stackAt (a : Word) (k : Fin 16) : (s.setPc a).stackAt k = s.stackAt k := rfl
@[simp] theorem State.setPc_memByte (a : Word) (b : Nat) : (s.setPc a).memByte b = s.memByte b := rfl
@[simp] theorem State.setPc_pixel (a : Word) (x' y' : Nat) : (s.setPc a).pixel x' y' = s.pixel x' y' := rfl
@[simp] theorem State.setPc_key (a : Word) (k' : Nibble) : (s.setPc a).key k' = s.key k' := rfl

/-! `State.skip` -/

@[simp] theorem State.skip_v : s.skip.v = s.v := rfl
@[simp] theorem State.skip_pc : s.skip.pc = s.pc + 2 := rfl
@[simp] theorem State.skip_i : s.skip.i = s.i := rfl
@[simp] theorem State.skip_sp : s.skip.sp = s.sp := rfl
@[simp] theorem State.skip_stack : s.skip.stack = s.stack := rfl
@[simp] theorem State.skip_dt : s.skip.dt = s.dt := rfl
@[simp] theorem State.skip_st : s.skip.st = s.st := rfl
@[simp] theorem State.skip_mem : s.skip.mem = s.mem := rfl
@[simp] theorem State.skip_fb : s.skip.fb = s.fb := rfl
@[simp] theorem State.skip_keys : s.skip.keys = s.keys := rfl
@[simp] theorem State.skip_fault : s.skip.fault = s.fault := rfl
@[simp] theorem State.skip_faultPc : s.skip.faultPc = s.faultPc := rfl
@[simp] theorem State.skip_faultOp : s.skip.faultOp = s.faultOp := rfl
@[simp] theorem State.skip_faultInfo : s.skip.faultInfo = s.faultInfo := rfl
@[simp] theorem State.skip_params : s.skip.params = s.params := rfl
@[simp] theorem State.skip_rnd : s.skip.rnd = s.rnd := rfl
@[simp] theorem State.skip_draws : s.skip.draws = s.draws := rfl
@[simp] theorem State.skip_getV (q : Nibble) : s.skip.getV q = s.getV q := rfl
@[simp] theorem State.skip_stackAt (k : Fin 16) : s.skip.stackAt k = s.stackAt k := rfl
@[simp] theorem State.skip_memByte (b : Nat) : s.skip.memByte b = s.memByte b := rfl
@[simp] theorem State.skip_pixel (x' y' : Nat) : s.skip.pixel x' y' = s.pixel x' y' := rfl
@[simp] theorem State.skip_key (k' : Nibble) : s.skip.key k' = s.key k' := rfl

/-! `State.rewind` -/

@[simp] theorem State.rewind_v : s.rewind.v = s.v := rfl
@[simp] theorem State.rewind_pc : s.rewind.pc = s.pc - 2 := rfl
@[simp] theorem State.rewind_i : s.rewind.i = s.i := rfl
@[simp] theorem State.rewind_sp : s.rewind.sp = s.sp := rfl
@[simp] theorem State.rewind_stack : s.rewind.stack = s.stack := rfl
@[simp] theorem State.rewind_dt : s.rewind.dt = s.dt := rfl
@[simp] theorem State.rewind_st : s.rewind.st = s.st := rfl
@[simp] theorem State.rewind_mem : s.rewind.mem = s.mem := rfl
@[simp] theorem State.rewind_fb : s.rewind.fb = s.fb := rfl
@[simp] theorem State.rewind_keys : s.rewind.keys = s.keys := rfl
@[simp] theorem State.rewind_fault : s.rewind.fault = s.fault := rfl
@[simp] theorem State.rewind_faultPc : s.rewind.faultPc = s.faultPc := rfl
@[simp] theorem State.rewind_faultOp : s.rewind.faultOp = s.faultOp := rfl
@[simp] theorem State.rewind_faultInfo : s.rewind.faultInfo = s.faultInfo := rfl
@[simp] theorem State.rewind_params : s.rewind.params = s.params := rfl
@[simp] theorem State.rewind_rnd : s.rewind.rnd = s.rnd := rfl
@[simp] theorem State.rewind_draws : s.rewind.draws = s.draws := rfl
@[simp] theorem State.rewind_getV (q : Nibble) : s.rewind.getV q = s.getV q := rfl
@[simp] theorem State.rewind_stackAt (k : Fin 16) : s.rewind.stackAt k = s.stackAt k := rfl
@[simp] theorem State.rewind_memByte (b : Nat) : s.rewind.memByte b = s.memByte b := rfl
@[simp] theorem State.rewind_pixel (x' y' : Nat) : s.rewind.pixel x' y' = s.pixel x' y' := rfl
@[simp] theorem State.rewind_key (k' : Nibble) : s.rewind.key k' = s.key k' := rfl

/-! `State.setI` -/

@[simp] theorem State.setI_v (a : Word) : (s.setI a).v = s.v := rfl
@[simp] theorem State.setI_pc (a : Word) : (s.setI a).pc = s.pc := rfl
@[simp] theorem State.setI_i (a : Word) : (s.setI a).i = a := rfl
@[simp] theorem State.setI_sp (a : Word) : (s.setI a).sp = s.sp := rfl
@[simp] theorem State.setI_stack (a : Word) : (s.setI a).stack = s.stack := rfl
@[simp] theorem State.setI_dt (a : Word) : (s.setI a).dt = s.dt := rfl
@[simp] theorem State.setI_st (a : Word) : (s.setI a).st = s.st := rfl
@[simp] theorem State.setI_mem (a : Word) : (s.setI a).mem = s.mem := rfl
@[simp] theorem State.setI_fb (a : Word) : (s.setI a).fb = s.fb := rfl
@[simp] theorem State.setI_keys (a : Word) : (s.setI a).keys = s.keys := rfl
@[simp] theorem State.setI_fault (a : Word) : (s.setI a).fault = s.fault := rfl
@[simp] theorem State.setI_faultPc (a : Word) : (s.setI a).faultPc = s.faultPc := rfl
@[simp] theorem State.setI_faultOp (a : Word) : (s.setI a).faultOp = s.faultOp := rfl
@[simp] theorem State.setI_faultInfo (a : Word) : (s.setI a).faultInfo = s.faultInfo := rfl
@[simp] theorem State.setI_params (a : Word) : (s.setI a).params = s.params := rfl
@[simp] theorem State.setI_rnd (a : Word) : (s.setI a).rnd = s.rnd := rfl
@[simp] theorem State.setI_draws (a : Word) : (s.setI a).draws = s.draws := rfl
@[simp] theorem State.setI_getV (a : Word) (q : Nibble) : (s.setI a).getV q = s.getV q := rfl
@[simp] theorem State.setI_stackAt (a : Word) (k : Fin 16) : (s.setI a).stackAt k = s.stackAt k := rfl
@[simp] theorem State.setI_memByte (a : Word) (b : Nat) : (s.setI a).memByte b = s.memByte b := rfl
@[simp] theorem State.setI_pixel (a : Word) (x' y' : Nat) : (s.setI a).pixel x' y' = s.pixel x' y' := rfl
@[simp] theorem State.setI_key (a : Word) (k' : Nibble) : (s.setI a).key k' = s.key k' := rfl

/-! `State.setDt` -/

@[simp] theorem State.setDt_v (x : Byte) : (s.setDt x).v = s.v := rfl
@[simp] theorem State.setDt_pc (x : Byte) : (s.setDt x).pc = s.pc := rfl
@[simp] theorem State.setDt_i (x : Byte) : (s.setDt x).i = s.i := rfl
@[simp] theorem State.setDt_sp (x : Byte) : (s.setDt x).sp = s.sp := rfl
@[simp] theorem State.setDt_stack (x : Byte) : (s.setDt x).stack = s.stack := rfl
@[simp] theorem State.setDt_dt (x : Byte) : (s.setDt x).dt = x := rfl
@[simp] theorem State.setDt_st (x : Byte) : (s.setDt x).st = s.st := rfl
@[simp] theorem State.setDt_mem (x : Byte) : (s.setDt x).mem = s.mem := rfl
@[simp] theorem State.setDt_fb (x : Byte) : (s.setDt x).fb = s.fb := rfl
@[simp] theorem State.setDt_keys (x : Byte) : (s.setDt x).keys = s.keys := rfl
@[simp] theorem State.setDt_fault (x : Byte) : (s.setDt x).fault = s.fault := rfl
@[simp] theorem State.setDt_faultPc (x : Byte) : (s.setDt x).faultPc = s.faultPc := rfl
@[simp] theorem State.setDt_faultOp (x : Byte) : (s.setDt x).faultOp = s.faultOp := rfl
@[simp] theorem State.setDt_faultInfo (x : Byte) : (s.setDt x).faultInfo = s.faultInfo := rfl
@[simp] theorem State.setDt_params (x : Byte) : (s.setDt x).params = s.params := rfl
@[simp] theorem State.setDt_rnd (x : Byte) : (s.setDt x).rnd = s.rnd := rfl
@[simp] theorem State.setDt_draws (x : Byte) : (s.setDt x).draws = s.draws := rfl
@[simp] theorem State.setDt_getV (x : Byte) (q : Nibble) : (s.setDt x).getV q = s.getV q := rfl
@[simp] theorem State.setDt_stackAt (x : Byte) (k : Fin 16) : (s.setDt x).stackAt k = s.stackAt k := rfl
@[simp] theorem State.setDt_memByte (x : Byte) (b : Nat) : (s.setDt x).memByte b = s.memByte b := rfl
@[simp] theorem State.setDt_pixel (x : Byte) (x' y' : Nat) : (s.setDt x).pixel x' y' = s.pixel x' y' := rfl
@[simp] theorem State.setDt_key (x : Byte) (k' : Nibble) : (s.setDt x).key k' = s.key k' := rfl

/-! `State.setSt` -/

@[simp] theorem State.setSt_v (x : Byte) : (s.setSt x).v = s.v := rfl
@[simp] theorem State.setSt_pc (x : Byte) : (s.setSt x).pc = s.pc := rfl
@[simp] theorem State.setSt_i (x : Byte) : (s.setSt x).i = s.i := rfl
@[simp] theorem State.setSt_sp (x : Byte) : (s.setSt x).sp = s.sp := rfl
@[simp] theorem State.setSt_stack (x : Byte) : (s.setSt x).stack = s.stack := rfl
@[simp] theorem State.setSt_dt (x : Byte) : (s.setSt x).dt = s.dt := rfl
@[simp] theorem State.setSt_st (x : Byte) : (s.setSt x).st = x := rfl
@[simp] theorem State.setSt_mem (x : Byte) : (s.setSt x).mem = s.mem := rfl
@[simp] theorem State.setSt_fb (x : Byte) : (s.setSt x).fb = s.fb := rfl
@[simp] theorem State.setSt_keys (x : Byte) : (s.setSt x).keys = s.keys := rfl
@[simp] theorem State.setSt_fault (x : Byte) : (s.setSt x).fault = s.fault := rfl
@[simp] theorem State.setSt_faultPc (x : Byte) : (s.setSt x).faultPc = s.faultPc := rfl
@[simp] theorem State.setSt_faultOp (x : Byte) : (s.setSt x).faultOp = s.faultOp := rfl
@[simp] theorem State.setSt_faultInfo (x : Byte) : (s.setSt x).faultInfo = s.faultInfo := rfl
@[simp] theorem State.setSt_params (x : Byte) : (s.setSt x).params = s.params := rfl
@[simp] theorem State.setSt_rnd (x : Byte) : (s.setSt x).rnd = s.rnd := rfl
@[simp] theorem State.setSt_draws (x : Byte) : (s.setSt x).draws = s.draws := rfl
@[simp] theorem State.setSt_getV (x : Byte) (q : Nibble) : (s.setSt x).getV q = s.getV q := rfl
@[simp] theorem State.setSt_stackAt (x : Byte) (k : Fin 16) : (s.setSt x).stackAt k = s.stackAt k := rfl
@[simp] theorem State.setSt_memByte (x : Byte) (b : Nat) : (s.setSt x).memByte b = s.memByte b := rfl
@[simp] theorem State.setSt_pixel (x : Byte) (x' y' : Nat) : (s.setSt x).pixel x' y' = s.pixel x' y' := rfl
@[simp] theorem State.setSt_key (x : Byte) (k' : Nibble) : (s.setSt x).key k' = s.key k' := rfl

/-! `State.setMemByte` -/

@[simp] theorem State.setMemByte_v (a : Nat) (x : Byte) : (s.setMemByte a x).v = s.v := rfl
@[simp] theorem State.setMemByte_pc (a : Nat) (x : Byte) : (s.setMemByte a x).pc = s.pc := rfl
@[simp] theorem State.setMemByte_i (a : Nat) (x : Byte) : (s.setMemByte a x).i = s.i := rfl
@[simp] theorem State.setMemByte_sp (a : Nat) (x : Byte) : (s.setMemByte a x).sp = s.sp := rfl
@[simp] theorem State.setMemByte_stack (a : Nat) (x : Byte) : (s.setMemByte a x).stack = s.stack := rfl
@[simp] theorem State.setMemByte_dt (a : Nat) (x : Byte) : (s.setMemByte a x).dt = s.dt := rfl
@[simp] theorem State.setMemByte_st (a : Nat) (x : Byte) : (s.setMemByte a x).st = s.st := rfl
@[simp] theorem State.setMemByte_mem (a : Nat) (x : Byte) : (s.setMemByte a x).mem = Memory.write (Memory.background s.params.font) s.mem a x := rfl
@[simp] theorem State.setMemByte_fb (a : Nat) (x : Byte) : (s.setMemByte a x).fb = s.fb := rfl
@[simp] theorem State.setMemByte_keys (a : Nat) (x : Byte) : (s.setMemByte a x).keys = s.keys := rfl
@[simp] theorem State.setMemByte_fault (a : Nat) (x : Byte) : (s.setMemByte a x).fault = s.fault := rfl
@[simp] theorem State.setMemByte_faultPc (a : Nat) (x : Byte) : (s.setMemByte a x).faultPc = s.faultPc := rfl
@[simp] theorem State.setMemByte_faultOp (a : Nat) (x : Byte) : (s.setMemByte a x).faultOp = s.faultOp := rfl
@[simp] theorem State.setMemByte_faultInfo (a : Nat) (x : Byte) : (s.setMemByte a x).faultInfo = s.faultInfo := rfl
@[simp] theorem State.setMemByte_params (a : Nat) (x : Byte) : (s.setMemByte a x).params = s.params := rfl
@[simp] theorem State.setMemByte_rnd (a : Nat) (x : Byte) : (s.setMemByte a x).rnd = s.rnd := rfl
@[simp] theorem State.setMemByte_draws (a : Nat) (x : Byte) : (s.setMemByte a x).draws = s.draws := rfl
@[simp] theorem State.setMemByte_getV (a : Nat) (x : Byte) (q : Nibble) : (s.setMemByte a x).getV q = s.getV q := rfl
@[simp] theorem State.setMemByte_stackAt (a : Nat) (x : Byte) (k : Fin 16) : (s.setMemByte a x).stackAt k = s.stackAt k := rfl
@[simp] theorem State.setMemByte_pixel (a : Nat) (x : Byte) (x' y' : Nat) : (s.setMemByte a x).pixel x' y' = s.pixel x' y' := rfl
@[simp] theorem State.setMemByte_key (a : Nat) (x : Byte) (k' : Nibble) : (s.setMemByte a x).key k' = s.key k' := rfl

/-! `State.setFb` -/

@[simp] theorem State.setFb_v (f : Framebuffer) : (s.setFb f).v = s.v := rfl
@[simp] theorem State.setFb_pc (f : Framebuffer) : (s.setFb f).pc = s.pc := rfl
@[simp] theorem State.setFb_i (f : Framebuffer) : (s.setFb f).i = s.i := rfl
@[simp] theorem State.setFb_sp (f : Framebuffer) : (s.setFb f).sp = s.sp := rfl
@[simp] theorem State.setFb_stack (f : Framebuffer) : (s.setFb f).stack = s.stack := rfl
@[simp] theorem State.setFb_dt (f : Framebuffer) : (s.setFb f).dt = s.dt := rfl
@[simp] theorem State.setFb_st (f : Framebuffer) : (s.setFb f).st = s.st := rfl
@[simp] theorem State.setFb_mem (f : Framebuffer) : (s.setFb f).mem = s.mem := rfl
@[simp] theorem State.setFb_fb (f : Framebuffer) : (s.setFb f).fb = f := rfl
@[simp] theorem State.setFb_keys (f : Framebuffer) : (s.setFb f).keys = s.keys := rfl
@[simp] theorem State.setFb_fault (f : Framebuffer) : (s.setFb f).fault = s.fault := rfl
@[simp] theorem State.setFb_faultPc (f : Framebuffer) : (s.setFb f).faultPc = s.faultPc := rfl
@[simp] theorem State.setFb_faultOp (f : Framebuffer) : (s.setFb f).faultOp = s.faultOp := rfl
@[simp] theorem State.setFb_faultInfo (f : Framebuffer) : (s.setFb f).faultInfo = s.faultInfo := rfl
@[simp] theorem State.setFb_params (f : Framebuffer) : (s.setFb f).params = s.params := rfl
@[simp] theorem State.setFb_rnd (f : Framebuffer) : (s.setFb f).rnd = s.rnd := rfl
@[simp] theorem State.setFb_draws (f : Framebuffer) : (s.setFb f).draws = s.draws := rfl
@[simp] theorem State.setFb_getV (f : Framebuffer) (q : Nibble) : (s.setFb f).getV q = s.getV q := rfl
@[simp] theorem State.setFb_stackAt (f : Framebuffer) (k : Fin 16) : (s.setFb f).stackAt k = s.stackAt k := rfl
@[simp] theorem State.setFb_memByte (f : Framebuffer) (b : Nat) : (s.setFb f).memByte b = s.memByte b := rfl
@[simp] theorem State.setFb_key (f : Framebuffer) (k' : Nibble) : (s.setFb f).key k' = s.key k' := rfl

/-! `State.timerTick` -/

@[simp] theorem State.timerTick_v : s.timerTick.v = s.v := rfl
@[simp] theorem State.timerTick_pc : s.timerTick.pc = s.pc := rfl
@[simp] theorem State.timerTick_i : s.timerTick.i = s.i := rfl
@[simp] theorem State.timerTick_sp : s.timerTick.sp = s.sp := rfl
@[simp] theorem State.timerTick_stack : s.timerTick.stack = s.stack := rfl
@[simp] theorem State.timerTick_dt : s.timerTick.dt = tickByte s.dt := rfl
@[simp] theorem State.timerTick_st : s.timerTick.st = tickByte s.st := rfl
@[simp] theorem State.timerTick_mem : s.timerTick.mem = s.mem := rfl
@[simp] theorem State.timerTick_fb : s.timerTick.fb = s.fb := rfl
@[simp] theorem State.timerTick_keys : s.timerTick.keys = s.keys := rfl
@[simp] theorem State.timerTick_fault : s.timerTick.fault = s.fault := rfl
@[simp] theorem State.timerTick_faultPc : s.timerTick.faultPc = s.faultPc := rfl
@[simp] theorem State.timerTick_faultOp : s.timerTick.faultOp = s.faultOp := rfl
@[simp] theorem State.timerTick_faultInfo : s.timerTick.faultInfo = s.faultInfo := rfl
@[simp] theorem State.timerTick_params : s.timerTick.params = s.params := rfl
@[simp] theorem State.timerTick_rnd : s.timerTick.rnd = s.rnd := rfl
@[simp] theorem State.timerTick_draws : s.timerTick.draws = s.draws := rfl
@[simp] theorem State.timerTick_getV (q : Nibble) : s.timerTick.getV q = s.getV q := rfl
@[simp] theorem State.timerTick_stackAt (k : Fin 16) : s.timerTick.stackAt k = s.stackAt k := rfl
@[simp] theorem State.timerTick_memByte (b : Nat) : s.timerTick.memByte b = s.memByte b := rfl
@[simp] theorem State.timerTick_pixel (x' y' : Nat) : s.timerTick.pixel x' y' = s.pixel x' y' := rfl
@[simp] theorem State.timerTick_key (k' : Nibble) : s.timerTick.key k' = s.key k' := rfl

/-! `State.nextInputs` -/

@[simp] theorem State.nextInputs_v : s.nextInputs.v = s.v := rfl
@[simp] theorem State.nextInputs_pc : s.nextInputs.pc = s.pc := rfl
@[simp] theorem State.nextInputs_i : s.nextInputs.i = s.i := rfl
@[simp] theorem State.nextInputs_sp : s.nextInputs.sp = s.sp := rfl
@[simp] theorem State.nextInputs_stack : s.nextInputs.stack = s.stack := rfl
@[simp] theorem State.nextInputs_dt : s.nextInputs.dt = s.dt := rfl
@[simp] theorem State.nextInputs_st : s.nextInputs.st = s.st := rfl
@[simp] theorem State.nextInputs_mem : s.nextInputs.mem = s.mem := rfl
@[simp] theorem State.nextInputs_fb : s.nextInputs.fb = s.fb := rfl
@[simp] theorem State.nextInputs_keys : s.nextInputs.keys = s.keys := rfl
@[simp] theorem State.nextInputs_fault : s.nextInputs.fault = s.fault := rfl
@[simp] theorem State.nextInputs_faultPc : s.nextInputs.faultPc = s.faultPc := rfl
@[simp] theorem State.nextInputs_faultOp : s.nextInputs.faultOp = s.faultOp := rfl
@[simp] theorem State.nextInputs_faultInfo : s.nextInputs.faultInfo = s.faultInfo := rfl
@[simp] theorem State.nextInputs_params : s.nextInputs.params = s.params := rfl
@[simp] theorem State.nextInputs_rnd : s.nextInputs.rnd = none := rfl
@[simp] theorem State.nextInputs_draws : s.nextInputs.draws = s.draws + 1 := rfl
@[simp] theorem State.nextInputs_getV (q : Nibble) : s.nextInputs.getV q = s.getV q := rfl
@[simp] theorem State.nextInputs_stackAt (k : Fin 16) : s.nextInputs.stackAt k = s.stackAt k := rfl
@[simp] theorem State.nextInputs_memByte (b : Nat) : s.nextInputs.memByte b = s.memByte b := rfl
@[simp] theorem State.nextInputs_pixel (x' y' : Nat) : s.nextInputs.pixel x' y' = s.pixel x' y' := rfl
@[simp] theorem State.nextInputs_key (k' : Nibble) : s.nextInputs.key k' = s.key k' := rfl

/-! `State.latch` -/

@[simp] theorem State.latch_v (a op : Word) (f : Fault) : (s.latch a op f).v = s.v := rfl
@[simp] theorem State.latch_pc (a op : Word) (f : Fault) : (s.latch a op f).pc = s.pc := rfl
@[simp] theorem State.latch_i (a op : Word) (f : Fault) : (s.latch a op f).i = s.i := rfl
@[simp] theorem State.latch_sp (a op : Word) (f : Fault) : (s.latch a op f).sp = s.sp := rfl
@[simp] theorem State.latch_stack (a op : Word) (f : Fault) : (s.latch a op f).stack = s.stack := rfl
@[simp] theorem State.latch_dt (a op : Word) (f : Fault) : (s.latch a op f).dt = s.dt := rfl
@[simp] theorem State.latch_st (a op : Word) (f : Fault) : (s.latch a op f).st = s.st := rfl
@[simp] theorem State.latch_mem (a op : Word) (f : Fault) : (s.latch a op f).mem = s.mem := rfl
@[simp] theorem State.latch_fb (a op : Word) (f : Fault) : (s.latch a op f).fb = s.fb := rfl
@[simp] theorem State.latch_keys (a op : Word) (f : Fault) : (s.latch a op f).keys = s.keys := rfl
@[simp] theorem State.latch_fault (a op : Word) (f : Fault) : (s.latch a op f).fault = f.code := rfl
@[simp] theorem State.latch_faultPc (a op : Word) (f : Fault) : (s.latch a op f).faultPc = a := rfl
@[simp] theorem State.latch_faultOp (a op : Word) (f : Fault) : (s.latch a op f).faultOp = op := rfl
@[simp] theorem State.latch_faultInfo (a op : Word) (f : Fault) : (s.latch a op f).faultInfo = f.info := rfl
@[simp] theorem State.latch_params (a op : Word) (f : Fault) : (s.latch a op f).params = s.params := rfl
@[simp] theorem State.latch_rnd (a op : Word) (f : Fault) : (s.latch a op f).rnd = s.rnd := rfl
@[simp] theorem State.latch_draws (a op : Word) (f : Fault) : (s.latch a op f).draws = s.draws := rfl
@[simp] theorem State.latch_getV (a op : Word) (f : Fault) (q : Nibble) : (s.latch a op f).getV q = s.getV q := rfl
@[simp] theorem State.latch_stackAt (a op : Word) (f : Fault) (k : Fin 16) : (s.latch a op f).stackAt k = s.stackAt k := rfl
@[simp] theorem State.latch_memByte (a op : Word) (f : Fault) (b : Nat) : (s.latch a op f).memByte b = s.memByte b := rfl
@[simp] theorem State.latch_pixel (a op : Word) (f : Fault) (x' y' : Nat) : (s.latch a op f).pixel x' y' = s.pixel x' y' := rfl
@[simp] theorem State.latch_key (a op : Word) (f : Fault) (k' : Nibble) : (s.latch a op f).key k' = s.key k' := rfl

/-! `State.setKey` -/

@[simp] theorem State.setKey_v (k : Nibble) (p : Bool) : (s.setKey k p).v = s.v := rfl
@[simp] theorem State.setKey_pc (k : Nibble) (p : Bool) : (s.setKey k p).pc = s.pc := rfl
@[simp] theorem State.setKey_i (k : Nibble) (p : Bool) : (s.setKey k p).i = s.i := rfl
@[simp] theorem State.setKey_sp (k : Nibble) (p : Bool) : (s.setKey k p).sp = s.sp := rfl
@[simp] theorem State.setKey_stack (k : Nibble) (p : Bool) : (s.setKey k p).stack = s.stack := rfl
@[simp] theorem State.setKey_dt (k : Nibble) (p : Bool) : (s.setKey k p).dt = s.dt := rfl
@[simp] theorem State.setKey_st (k : Nibble) (p : Bool) : (s.setKey k p).st = s.st := rfl
@[simp] theorem State.setKey_mem (k : Nibble) (p : Bool) : (s.setKey k p).mem = s.mem := rfl
@[simp] theorem State.setKey_fb (k : Nibble) (p : Bool) : (s.setKey k p).fb = s.fb := rfl
@[simp] theorem State.setKey_keys (k : Nibble) (p : Bool) : (s.setKey k p).keys = s.keys.set k.toNat p k.isLt := rfl
@[simp] theorem State.setKey_fault (k : Nibble) (p : Bool) : (s.setKey k p).fault = s.fault := rfl
@[simp] theorem State.setKey_faultPc (k : Nibble) (p : Bool) : (s.setKey k p).faultPc = s.faultPc := rfl
@[simp] theorem State.setKey_faultOp (k : Nibble) (p : Bool) : (s.setKey k p).faultOp = s.faultOp := rfl
@[simp] theorem State.setKey_faultInfo (k : Nibble) (p : Bool) : (s.setKey k p).faultInfo = s.faultInfo := rfl
@[simp] theorem State.setKey_params (k : Nibble) (p : Bool) : (s.setKey k p).params = s.params := rfl
@[simp] theorem State.setKey_rnd (k : Nibble) (p : Bool) : (s.setKey k p).rnd = s.rnd := rfl
@[simp] theorem State.setKey_draws (k : Nibble) (p : Bool) : (s.setKey k p).draws = s.draws := rfl
@[simp] theorem State.setKey_getV (k : Nibble) (p : Bool) (q : Nibble) : (s.setKey k p).getV q = s.getV q := rfl
@[simp] theorem State.setKey_stackAt (k : Nibble) (p : Bool) (j : Fin 16) : (s.setKey k p).stackAt j = s.stackAt j := rfl
@[simp] theorem State.setKey_memByte (k : Nibble) (p : Bool) (b : Nat) : (s.setKey k p).memByte b = s.memByte b := rfl
@[simp] theorem State.setKey_pixel (k : Nibble) (p : Bool) (x' y' : Nat) : (s.setKey k p).pixel x' y' = s.pixel x' y' := rfl

/-! `State.withRnd` -/

@[simp] theorem State.withRnd_v (b' : Byte) : (s.withRnd b').v = s.v := rfl
@[simp] theorem State.withRnd_pc (b' : Byte) : (s.withRnd b').pc = s.pc := rfl
@[simp] theorem State.withRnd_i (b' : Byte) : (s.withRnd b').i = s.i := rfl
@[simp] theorem State.withRnd_sp (b' : Byte) : (s.withRnd b').sp = s.sp := rfl
@[simp] theorem State.withRnd_stack (b' : Byte) : (s.withRnd b').stack = s.stack := rfl
@[simp] theorem State.withRnd_dt (b' : Byte) : (s.withRnd b').dt = s.dt := rfl
@[simp] theorem State.withRnd_st (b' : Byte) : (s.withRnd b').st = s.st := rfl
@[simp] theorem State.withRnd_mem (b' : Byte) : (s.withRnd b').mem = s.mem := rfl
@[simp] theorem State.withRnd_fb (b' : Byte) : (s.withRnd b').fb = s.fb := rfl
@[simp] theorem State.withRnd_keys (b' : Byte) : (s.withRnd b').keys = s.keys := rfl
@[simp] theorem State.withRnd_fault (b' : Byte) : (s.withRnd b').fault = s.fault := rfl
@[simp] theorem State.withRnd_faultPc (b' : Byte) : (s.withRnd b').faultPc = s.faultPc := rfl
@[simp] theorem State.withRnd_faultOp (b' : Byte) : (s.withRnd b').faultOp = s.faultOp := rfl
@[simp] theorem State.withRnd_faultInfo (b' : Byte) : (s.withRnd b').faultInfo = s.faultInfo := rfl
@[simp] theorem State.withRnd_params (b' : Byte) : (s.withRnd b').params = s.params := rfl
@[simp] theorem State.withRnd_rnd (b' : Byte) : (s.withRnd b').rnd = some b' := rfl
@[simp] theorem State.withRnd_draws (b' : Byte) : (s.withRnd b').draws = s.draws := rfl
@[simp] theorem State.withRnd_getV (b' : Byte) (q : Nibble) : (s.withRnd b').getV q = s.getV q := rfl
@[simp] theorem State.withRnd_stackAt (b' : Byte) (k : Fin 16) : (s.withRnd b').stackAt k = s.stackAt k := rfl
@[simp] theorem State.withRnd_memByte (b' : Byte) (b : Nat) : (s.withRnd b').memByte b = s.memByte b := rfl
@[simp] theorem State.withRnd_pixel (b' : Byte) (x' y' : Nat) : (s.withRnd b').pixel x' y' = s.pixel x' y' := rfl
@[simp] theorem State.withRnd_key (b' : Byte) (k' : Nibble) : (s.withRnd b').key k' = s.key k' := rfl

end Sys2Proof.Machine
end

