-- ==== Sys2Proof/Laws/Ops.lean ====
section
/-! SUPPORT. What each shared operation does, said once: registers, memory, the address check, blocks, the fetch, the stack, the timers,
the end of a step, taking a fault. -/

namespace Sys2Proof.Machine

variable (s : State)

/-! Registers. -/

theorem State.getV_setV (r q : Nibble) (x : Byte) : (s.setV r x).getV q = if q = r then x else s.getV q := by
  simp only [State.getV, State.setV, Vector.getElem_set, BitVec.toNat_inj]
  by_cases h : q = r
  · simp [h]
  · simp [h, Ne.symm h]

@[simp] theorem State.getV_setV_same (r : Nibble) (x : Byte) : (s.setV r x).getV r = x := by simp [State.getV_setV]

theorem State.getV_setV_other (r q : Nibble) (x : Byte) (h : q ≠ r) : (s.setV r x).getV q = s.getV q := by
  simp [State.getV_setV, h]

theorem State.getV_writeFlagged (x q : Nibble) (f : Bool) (v : Byte) :
    (s.writeFlagged x f v).getV q = if q = x then v else if q = vf then flagByte f else s.getV q := by
  simp [State.writeFlagged, State.getV_setV]

/-- A settled result is written as R551 says. -/
theorem State.writeAliased_settled (x : Nibble) (y : Option Nibble) (f : Bool) (v : Byte) (h : s.unsettled x y = false) :
    s.writeAliased x y f v = s.writeFlagged x f v := by
  simp [State.writeAliased, h]

/-- Either way only V[X] and VF are written. -/
theorem State.writeAliased_cases (x : Nibble) (y : Option Nibble) (f : Bool) (v : Byte) :
    ∃ a b, s.writeAliased x y f v = (s.setV vf a).setV x b := by
  unfold State.writeAliased State.writeFlagged
  split <;> exact ⟨_, _, rfl⟩

theorem State.unsettled_latched (x : Nibble) (y : Option Nibble) (h : s.params.vfAlias = .latched) :
    s.unsettled x y = false := by
  simp [State.unsettled, h]

/-! Memory. -/

theorem State.memByte_setMemByte_other (a b : Nat) (x : Byte) (h : b ≠ a) :
    (s.setMemByte a x).memByte b = s.memByte b :=
  Memory.read_write_other _ _ _ _ _ h

theorem State.memByte_setMemByte_same (a : Nat) (x : Byte)
    (h : Memory.wf (Memory.background s.params.font) s.mem = true) : (s.setMemByte a x).memByte a = x :=
  Memory.read_write_same _ _ _ _ h

theorem State.setMemByte_wf (a : Nat) (x : Byte) (ha : a < 4096)
    (h : Memory.wf (Memory.background s.params.font) s.mem = true) :
    Memory.wf (Memory.background (s.setMemByte a x).params.font) (s.setMemByte a x).mem = true :=
  Memory.write_wf _ _ _ _ ha h

/-- A block store changes only memory. -/
theorem State.storeAll_eq (l : List (Nat × Byte)) : ∃ m, s.storeAll l = { s with mem := m } := by
  induction l generalizing s with
  | nil => exact ⟨s.mem, rfl⟩
  | cons c l ih => exact ih (s.setMemByte c.1 c.2)

theorem State.memByte_storeAll_other (l : List (Nat × Byte)) (b : Nat) (h : b ∉ l.map Prod.fst) :
    (s.storeAll l).memByte b = s.memByte b := by
  induction l generalizing s with
  | nil => rfl
  | cons c l ih =>
    simp only [List.map_cons, List.mem_cons, not_or] at h
    exact (ih _ h.2).trans (State.memByte_setMemByte_other s c.1 b c.2 h.1)

theorem State.storeAll_wf (l : List (Nat × Byte)) (hl : ∀ a ∈ l.map Prod.fst, a < 4096)
    (h : Memory.wf (Memory.background s.params.font) s.mem = true) :
    Memory.wf (Memory.background (s.storeAll l).params.font) (s.storeAll l).mem = true := by
  induction l generalizing s with
  | nil => exact h
  | cons c l ih =>
    exact ih _ (fun a ha => hl a (by simp [ha])) (State.setMemByte_wf s c.1 c.2 (hl c.1 (by simp)) h)

/-- After a block store to distinct addresses, each address holds its byte. -/
theorem State.memByte_storeAll_mem (l : List (Nat × Byte)) (hd : (l.map Prod.fst).Nodup) (hl : ∀ a ∈ l.map Prod.fst, a < 4096)
    (h : Memory.wf (Memory.background s.params.font) s.mem = true) (a : Nat) (x : Byte) (hx : (a, x) ∈ l) :
    (s.storeAll l).memByte a = x := by
  induction l generalizing s with
  | nil => cases hx
  | cons c l ih =>
    simp only [List.map_cons, List.nodup_cons] at hd
    rcases List.mem_cons.1 hx with rfl | hx
    · rw [State.storeAll, State.memByte_storeAll_other _ _ _ hd.1, State.memByte_setMemByte_same _ _ _ h]
    · exact ih _ hd.2 (fun b hb => hl b (by simp [hb])) (State.setMemByte_wf s c.1 c.2 (hl c.1 (by simp)) h) hx

/-- A block load changes only V. -/
theorem State.loadAll_eq (l : List (Nibble × Nat)) : ∃ v, s.loadAll l = { s with v := v } := by
  induction l generalizing s with
  | nil => exact ⟨s.v, rfl⟩
  | cons c l ih => exact ih (s.setV c.1 (s.memByte c.2))

theorem State.getV_loadAll_other (l : List (Nibble × Nat)) (q : Nibble) (h : q ∉ l.map Prod.fst) :
    (s.loadAll l).getV q = s.getV q := by
  induction l generalizing s with
  | nil => rfl
  | cons c l ih =>
    simp only [List.map_cons, List.mem_cons, not_or] at h
    exact (ih _ h.2).trans (State.getV_setV_other s c.1 q _ h.1)

theorem State.getV_loadAll_mem (l : List (Nibble × Nat)) (hd : (l.map Prod.fst).Nodup) (r : Nibble) (a : Nat) (h : (r, a) ∈ l) :
    (s.loadAll l).getV r = s.memByte a := by
  induction l generalizing s with
  | nil => cases h
  | cons c l ih =>
    simp only [List.map_cons, List.nodup_cons] at hd
    rcases List.mem_cons.1 h with rfl | h
    · rw [State.loadAll, State.getV_loadAll_other _ _ _ hd.1, State.getV_setV_same]
    · exact (ih _ hd.2 h).trans (by simp)

/-! The address check (R203). -/

theorem check_low (m : AddrMode) (a : Nat) (h : a ≤ 0xFFF) : check m a = .ok a := by simp [check, h]

theorem check_wrap (a : Nat) : check .wrap12 a = .ok (a % 4096) := by
  by_cases h : a ≤ 0xFFF
  · rw [check_low _ _ h, Nat.mod_eq_of_lt (by omega)]
  · simp [check, h]

theorem check_high (a : Nat) (h : 0xFFF < a) : check .fault a = .error (.addressOutOfRange a) := by
  simp [check, Nat.not_le.2 h]

/-- A checked address is the address modulo 4096, and with ADDR_MODE = fault the address itself. -/
theorem check_ok {m : AddrMode} {a b : Nat} (h : check m a = .ok b) : b = a % 4096 ∧ (m = .fault → a ≤ 0xFFF) := by
  by_cases ha : a ≤ 0xFFF
  · rw [check_low m a ha, Except.ok.injEq] at h
    exact ⟨by omega, fun _ => ha⟩
  · cases m with
    | fault => rw [check_high a (Nat.not_le.1 ha)] at h; cases h
    | wrap12 => rw [check_wrap, Except.ok.injEq] at h; exact ⟨h.symm, nofun⟩

theorem checkAll_wrap (as : List Nat) : checkAll .wrap12 as = .ok (as.map (· % 4096)) := by
  induction as with
  | nil => rfl
  | cons a as ih => simp [checkAll, check_wrap, ih]

theorem checkAll_low (m : AddrMode) (as : List Nat) (h : ∀ a ∈ as, a ≤ 0xFFF) : checkAll m as = .ok (as.map (· % 4096)) := by
  induction as with
  | nil => rfl
  | cons a as ih =>
    have ha := h a (by simp)
    simp [checkAll, check_low m a ha, ih fun b hb => h b (by simp [hb]), Nat.mod_eq_of_lt (Nat.lt_succ_of_le ha)]

/-- The first address above 0xFFF is the one reported (R713). -/
theorem checkAll_high (pre post : List Nat) (a : Nat) (h : ∀ b ∈ pre, b ≤ 0xFFF) (ha : 0xFFF < a) :
    checkAll .fault (pre ++ a :: post) = .error (.addressOutOfRange a) := by
  induction pre with
  | nil => simp [checkAll, check_high a ha]
  | cons b pre ih =>
    simp [checkAll, check_low _ b (h b (by simp)), ih fun c hc => h c (by simp [hc])]

@[simp] theorem length_blockAddrs (i : Word) (n : Nat) : (blockAddrs i n).length = n := by simp [blockAddrs]

theorem mem_blockAddrs (i : Word) (n a : Nat) : a ∈ blockAddrs i n ↔ ∃ k < n, a = i.toNat + k := by
  simp [blockAddrs, eq_comm]

/-- A block access that is not out of range (R203, R204): the addresses, each modulo 4096. -/
theorem State.checkBlock_ok (n : Nat) (h : s.params.addrMode = .wrap12 ∨ n = 0 ∨ s.i.toNat + n ≤ 0x1000) :
    s.checkBlock n = .ok ((List.range n).map fun k => (s.i.toNat + k) % 4096) := by
  have hmap : (blockAddrs s.i n).map (· % 4096) = (List.range n).map fun k => (s.i.toNat + k) % 4096 := by
    simp [blockAddrs, Function.comp_def]
  rcases h with h | h | h
  · rw [State.checkBlock, h, checkAll_wrap, hmap]
  · subst h; rfl
  · rw [State.checkBlock, checkAll_low _ _ _, hmap]
    intro a ha
    obtain ⟨k, hk, rfl⟩ := (mem_blockAddrs _ _ _).1 ha
    omega

/-- A block access out of range faults with the lowest address above 0xFFF (R203, R713). -/
theorem State.checkBlock_high (n : Nat) (hm : s.params.addrMode = .fault) (h0 : 0 < n) (h : 0x1000 < s.i.toNat + n) :
    s.checkBlock n = .error (.addressOutOfRange (max s.i.toNat 0x1000)) := by
  have hsplit : blockAddrs s.i n = (List.range (0x1000 - s.i.toNat)).map (s.i.toNat + ·) ++
      (max s.i.toNat 0x1000) :: ((List.range (n - (0x1000 - s.i.toNat) - 1)).map (max s.i.toNat 0x1000 + 1 + ·)) := by
    apply List.ext_getElem
    · simp; omega
    · intro k h1 h2
      simp only [blockAddrs, List.getElem_map, List.getElem_range, List.getElem_append, List.length_map, List.length_range]
      split
      · rfl
      · next hk =>
        rcases Nat.eq_or_lt_of_le (Nat.not_lt.1 hk) with he | hl
        · simp [← he]; omega
        · obtain ⟨j, hj⟩ : ∃ j, k - (0x1000 - s.i.toNat) = j + 1 := ⟨k - (0x1000 - s.i.toNat) - 1, by omega⟩
          simp only [hj, List.getElem_cons_succ, List.getElem_map, List.getElem_range]
          omega
  rw [State.checkBlock, hm, hsplit]
  refine checkAll_high _ _ _ ?_ (by omega)
  intro b hb
  simp only [List.mem_map, List.mem_range] at hb
  omega

/-- Every checked block address is an address of memory. -/
theorem State.checkBlock_lt (n : Nat) (addrs : List Nat) (h : s.checkBlock n = .ok addrs) :
    addrs.length = n ∧ (∀ a ∈ addrs, a < 4096) := by
  by_cases hr : s.params.addrMode = .wrap12 ∨ n = 0 ∨ s.i.toNat + n ≤ 0x1000
  · rw [State.checkBlock_ok s n hr, Except.ok.injEq] at h
    subst h
    refine ⟨by simp, ?_⟩
    intro a ha
    simp only [List.mem_map] at ha
    omega
  · have hm : s.params.addrMode = .fault := by cases hm : s.params.addrMode <;> simp_all
    rw [State.checkBlock_high s n hm (by omega) (by omega)] at h
    cases h

/-! The fetch (R205). -/

theorem State.fetchWord_ok (h : s.params.addrMode = .wrap12 ∨ s.pc.toNat ≤ 0xFFE) :
    s.fetchWord = .ok (wordOfBytes (s.memByte (s.pc.toNat % 4096)) (s.memByte ((s.pc.toNat + 1) % 4096))) := by
  rcases h with h | h
  · simp [State.fetchWord, h, check_wrap]
  · have h1 : s.pc.toNat % 4096 = s.pc.toNat := Nat.mod_eq_of_lt (by omega)
    have h2 : (s.pc.toNat + 1) % 4096 = s.pc.toNat + 1 := Nat.mod_eq_of_lt (by omega)
    simp [State.fetchWord, check_low _ s.pc.toNat (by omega), check_low _ (s.pc.toNat + 1) (by omega), h1, h2]

theorem State.fetchWord_high (hm : s.params.addrMode = .fault) (h : 0xFFE < s.pc.toNat) :
    s.fetchWord = .error (.addressOutOfRange (if s.pc.toNat > 0xFFF then s.pc.toNat else s.pc.toNat + 1)) := by
  by_cases hp : s.pc.toNat > 0xFFF
  · simp [State.fetchWord, hm, check_high _ hp, hp]
  · simp [State.fetchWord, hm, check_low _ _ (Nat.not_lt.1 hp), check_high (s.pc.toNat + 1) (by omega), hp]

/-! The call stack (R107). -/

theorem State.push_full (a : Word) (h : s.sp.val = 16) : s.push a = none := by simp [State.push, h]

theorem State.push_some (a : Word) (h : s.sp.val < 16) :
    s.push a = some { s with stack := s.stack.set s.sp.val a h, sp := ⟨s.sp.val + 1, by omega⟩ } := by
  simp [State.push, h]

theorem State.pop_empty (h : s.sp.val = 0) : s.pop = none := by simp [State.pop, h]

theorem State.pop_some (h : 0 < s.sp.val) :
    s.pop = some (s.stackAt ⟨s.sp.val - 1, by omega⟩, { s with sp := ⟨s.sp.val - 1, by omega⟩ }) := by
  simp [State.pop, h, State.stackAt]

/-! Timers and the end of a step (R740). -/

theorem toNat_tickByte (x : Byte) : (tickByte x).toNat = x.toNat - 1 := by
  unfold tickByte
  split
  · next h => simp [h]
  · next h => have : x.toNat ≠ 0 := fun h' => h (by simpa using BitVec.eq_of_toNat_eq (by simpa using h')); simp [BitVec.toNat_sub]; omega

theorem State.finish_clear (h : s.fault = 0) : s.finish = s.timerTick.nextInputs := by simp [State.finish, h]

theorem State.finish_faulted (h : s.fault ≠ 0) : s.finish = s := if_neg h

/-! Taking a fault (R710). -/

theorem Fault.code_ne_zero (f : Fault) : f.code ≠ 0 := by cases f <;> simp [Fault.code]

theorem Fault.code_le (f : Fault) : f.code.toNat ≤ 5 := by cases f <;> simp [Fault.code]

theorem State.latch_fault_ne (a op : Word) (f : Fault) : (s.latch a op f).fault ≠ 0 := f.code_ne_zero

@[simp] theorem State.rewind_skip : s.skip.rewind = s := by
  cases s; simp [State.skip, State.rewind, State.setPc]

/-- A fault raised by an instruction of a step leaves the state before the step, its fault registers written. -/
theorem State.raise_skip (op : Word) (f : Fault) : s.skip.raise op f = .next (s.latch s.pc op f) := by
  simp [State.raise]

/-! The framebuffer (R402). -/

theorem Framebuffer.at_toggle (fb : Framebuffer) (x y a b : Nat) :
    (fb.toggle x y).at a b = if a % 64 = x % 64 ∧ b % 32 = y % 32 then !(fb.at a b) else fb.at a b := by
  simp only [Framebuffer.toggle, Framebuffer.at, Vector.getElem_set]
  by_cases hy : y % 32 = b % 32
  · by_cases hx : x % 64 = a % 64
    · simp [hx, hy]
    · simp [hx, hy, Ne.symm hx]
  · simp [hy, Ne.symm hy]

@[simp] theorem Framebuffer.at_blank (a b : Nat) : Framebuffer.blank.at a b = false := by
  simp [Framebuffer.at, Framebuffer.blank]

end Sys2Proof.Machine
end

