-- ==== Sys2Proof/Laws/Draw.lean ====
section
/-! SUPPORT. What the drawing loop of DRW does, in closed form (41_display R402, R403): every pixel under a set sprite bit is toggled once,
and the collision is that some such pixel was lit. -/

namespace Sys2Proof.Machine

/-- Some column of `cs` puts a set bit of `row`, drawn on screen row `y` from column `x0`, over the pixel (a, b). -/
def colsCover (x0 y : Nat) (row : Byte) (cs : List Nat) (a b : Nat) : Bool :=
  decide (b % 32 = y % 32) && cs.any fun c => decide (a % 64 = (x0 + c) % 64) && row.getLsbD (7 - c)

/-- Some row of the sprite, drawn from (x0, y), puts a set bit over the pixel (a, b). -/
def rowsCover (x0 : Nat) : Nat → List Byte → Nat → Nat → Bool
  | _, [], _, _ => false
  | y, row :: rows, a, b => colsCover x0 y row (List.range 8) a b || rowsCover x0 (y + 1) rows a b

theorem colsCover_cons (x0 y : Nat) (row : Byte) (c : Nat) (cs : List Nat) (a b : Nat) :
    colsCover x0 y row (c :: cs) a b =
      ((decide (b % 32 = y % 32) && decide (a % 64 = (x0 + c) % 64) && row.getLsbD (7 - c)) || colsCover x0 y row cs a b) := by
  simp only [colsCover, List.any_cons, Bool.and_or_distrib_left, Bool.and_assoc]

/-- The columns of one sprite row: each covered pixel is toggled once; a hit is a covered lit pixel. -/
theorem drawCols_spec (x0 y : Nat) (row : Byte) (cs : List Nat) (hd : (cs.map fun c => (x0 + c) % 64).Nodup)
    (fb : Framebuffer) (hit : Bool) :
    (∀ a b, (drawCols x0 y row cs fb hit).1.at a b = (fb.at a b ^^ colsCover x0 y row cs a b)) ∧
    ((drawCols x0 y row cs fb hit).2 = true ↔
      hit = true ∨ ∃ a b, colsCover x0 y row cs a b = true ∧ fb.at a b = true) := by
  induction cs generalizing fb hit with
  | nil => simp [drawCols, colsCover]
  | cons c cs ih =>
    simp only [List.map_cons, List.nodup_cons] at hd
    obtain ⟨ih1, ih2⟩ := ih hd.2 (plot fb hit (x0 + c) y (row.getLsbD (7 - c))).1 (plot fb hit (x0 + c) y (row.getLsbD (7 - c))).2
    have hno : ∀ a b, a % 64 = (x0 + c) % 64 → colsCover x0 y row cs a b = false := by
      intro a b hab
      by_contra h
      simp only [colsCover, Bool.not_eq_false, Bool.and_eq_true, List.any_eq_true, decide_eq_true_eq] at h
      obtain ⟨-, e, he, hae, -⟩ := h
      exact hd.1 (by rw [← hab, hae]; exact List.mem_map_of_mem (f := fun c => (x0 + c) % 64) he)
    simp only [drawCols]
    refine ⟨fun a b => ?_, ?_⟩
    · rw [ih1, colsCover_cons]
      cases hb : row.getLsbD (7 - c) with
      | false => simp [plot]
      | true =>
        simp only [plot, if_true, Framebuffer.at_toggle, Bool.and_true]
        by_cases h1 : a % 64 = (x0 + c) % 64
        · by_cases h2 : b % 32 = y % 32 <;> simp [h1, h2, hno a b h1]
        · simp [h1]
    · rw [ih2]
      cases hb : row.getLsbD (7 - c) with
      | false => simp [plot, colsCover_cons, hb]
      | true =>
        simp only [plot, if_true, Framebuffer.at_toggle, Bool.or_eq_true]
        constructor
        · rintro ((h | h) | ⟨a, b, hc, hl⟩)
          · exact .inl h
          · exact .inr ⟨x0 + c, y, by simp [colsCover_cons, hb], h⟩
          · refine .inr ⟨a, b, by simp [colsCover_cons, hc], ?_⟩
            have : ¬ a % 64 = (x0 + c) % 64 := fun h => by simp [hno a b h] at hc
            simpa [this] using hl
        · rintro (h | ⟨a, b, hc, hl⟩)
          · exact .inl (.inl h)
          · rw [colsCover_cons] at hc
            simp only [hb, Bool.and_true, Bool.or_eq_true, Bool.and_eq_true, decide_eq_true_eq] at hc
            rcases hc with ⟨h2, h1⟩ | hc
            · refine .inl (.inr ?_)
              simpa [Framebuffer.at, h1, h2] using hl
            · refine .inr ⟨a, b, hc, ?_⟩
              have : ¬ a % 64 = (x0 + c) % 64 := fun h => by simp [hno a b h] at hc
              simpa [this] using hl

/-- The eight columns of a row are eight distinct screen columns (R403). -/
theorem nodup_cols (x0 : Nat) : ((List.range 8).map fun c => (x0 + c) % 64).Nodup := by
  refine List.Nodup.map_on ?_ List.nodup_range
  intro a ha b hb hab
  simp only [List.mem_range] at ha hb
  omega

theorem colsCover_row (x0 y : Nat) (row : Byte) (cs : List Nat) (a b : Nat) (h : colsCover x0 y row cs a b = true) :
    b % 32 = y % 32 := by
  simp only [colsCover, Bool.and_eq_true, decide_eq_true_eq] at h
  exact h.1

theorem rowsCover_iff (x0 y : Nat) (rows : List Byte) (a b : Nat) :
    rowsCover x0 y rows a b = true ↔ ∃ (r : Nat) (h : r < rows.length), colsCover x0 (y + r) rows[r] (List.range 8) a b = true := by
  induction rows generalizing y with
  | nil => simp [rowsCover]
  | cons row rows ih =>
    simp only [rowsCover, Bool.or_eq_true, ih]
    constructor
    · rintro (h | ⟨r, hr, h⟩)
      · exact ⟨0, by simp, by simpa using h⟩
      · exact ⟨r + 1, by simpa using hr, by simpa [Nat.add_right_comm, Nat.add_assoc] using h⟩
    · rintro ⟨r, hr, h⟩
      cases r with
      | zero => exact .inl (by simpa using h)
      | succ r => exact .inr ⟨r, by simpa using hr, by simpa [Nat.add_right_comm, Nat.add_assoc] using h⟩

/-- The rows of a sprite of at most 32 rows: each covered pixel is toggled once; a hit is a covered lit pixel. -/
theorem drawRows_spec (x0 y : Nat) (rows : List Byte) (hn : rows.length ≤ 32) (fb : Framebuffer) (hit : Bool) :
    (∀ a b, (drawRows x0 y rows fb hit).1.at a b = (fb.at a b ^^ rowsCover x0 y rows a b)) ∧
    ((drawRows x0 y rows fb hit).2 = true ↔
      hit = true ∨ ∃ a b, rowsCover x0 y rows a b = true ∧ fb.at a b = true) := by
  induction rows generalizing y fb hit with
  | nil => simp [drawRows, rowsCover]
  | cons row rows ih =>
    have hn' : rows.length < 32 := by simpa using hn
    obtain ⟨c1, c2⟩ := drawCols_spec x0 y row (List.range 8) (nodup_cols x0) fb hit
    obtain ⟨r1, r2⟩ := ih (y + 1) (by omega) (drawCols x0 y row (List.range 8) fb hit).1 (drawCols x0 y row (List.range 8) fb hit).2
    have hno : ∀ a b, b % 32 = y % 32 → rowsCover x0 (y + 1) rows a b = false := by
      intro a b hb
      by_contra h
      simp only [Bool.not_eq_false] at h
      obtain ⟨r, hr, h⟩ := (rowsCover_iff _ _ _ _ _).1 h
      have := colsCover_row _ _ _ _ _ _ h
      omega
    simp only [drawRows]
    refine ⟨fun a b => ?_, ?_⟩
    · rw [r1, c1, rowsCover]
      cases hc : colsCover x0 y row (List.range 8) a b with
      | false => simp
      | true => simp [hno a b (colsCover_row _ _ _ _ _ _ hc)]
    · rw [r2, c2]
      simp only [c1, rowsCover, Bool.or_eq_true]
      constructor
      · rintro ((h | ⟨a, b, hc, hl⟩) | ⟨a, b, hc, hl⟩)
        · exact .inl h
        · exact .inr ⟨a, b, .inl hc, hl⟩
        · refine .inr ⟨a, b, .inr hc, ?_⟩
          have : colsCover x0 y row (List.range 8) a b = false := by
            by_contra h
            rw [hno a b (colsCover_row _ _ _ _ _ _ (by simpa using h))] at hc
            cases hc
          simpa [this] using hl
      · rintro (h | ⟨a, b, hc | hc, hl⟩)
        · exact .inl (.inl h)
        · exact .inl (.inr ⟨a, b, hc, hl⟩)
        · refine .inr ⟨a, b, hc, ?_⟩
          have : colsCover x0 y row (List.range 8) a b = false := by
            by_contra h
            rw [hno a b (colsCover_row _ _ _ _ _ _ (by simpa using h))] at hc
            cases hc
          simpa [this] using hl

/-- The columns of one row as one test on the distance from the left edge. -/
theorem colsCover_iff (x0 y : Nat) (row : Byte) (a b : Nat) :
    colsCover x0 y row (List.range 8) a b = true ↔
      b % 32 = y % 32 ∧ (a + 64 - x0 % 64) % 64 < 8 ∧ row.getLsbD (7 - (a + 64 - x0 % 64) % 64) = true := by
  simp only [colsCover, Bool.and_eq_true, decide_eq_true_eq, List.any_eq_true, List.mem_range]
  refine and_congr_right fun _ => ?_
  constructor
  · rintro ⟨c, hc, he, hb⟩
    have : (a + 64 - x0 % 64) % 64 = c := by omega
    rw [this]; exact ⟨hc, hb⟩
  · rintro ⟨hc, hb⟩
    exact ⟨_, hc, by omega, hb⟩

/-- The sprite's rows read from memory cover the pixels of `underSprite`, the word the statements use. -/
theorem State.rowsCover_underSprite (s : State) (n x0 y0 : Nat) (hn : n ≤ 32) (a b : Nat) :
    rowsCover x0 y0 ((List.range n).map fun k => s.memByte ((s.i.toNat + k) % 4096)) a b = s.underSprite n x0 y0 a b := by
  rw [Bool.eq_iff_iff, rowsCover_iff]
  simp only [colsCover_iff, State.underSprite, Bool.and_eq_true, decide_eq_true_eq, List.length_map, List.length_range, List.getElem_map,
    List.getElem_range]
  constructor
  · rintro ⟨r, hr, hb, hc, ht⟩
    have : (b + 32 - y0 % 32) % 32 = r := by omega
    rw [this]; exact ⟨⟨hc, hr⟩, ht⟩
  · rintro ⟨⟨hc, hr⟩, ht⟩
    exact ⟨_, hr, by omega, hc, ht⟩

end Sys2Proof.Machine
end

