-- ==== Sys2Proof/Laws/Effects.lean ====
section
/-! SUPPORT. What the operand forms, the flag computations and the register updates do, in the terms of the statements: numbers and
frames. -/

namespace Sys2Proof.Machine

variable (s : State)

/-! Flags and results as numbers (R550). -/

theorem toNat_sumOf (a b : Byte) : (sumOf a b).toNat = (a.toNat + b.toNat) % 256 := by simp [sumOf]

theorem toNat_diffOf (a b : Byte) : (diffOf a b).toNat = (a.toNat + 256 - b.toNat) % 256 := by simp [diffOf]

theorem toNat_lowBit (a : Byte) : (flagByte (lowBitOf a)).toNat = a.toNat % 2 := by
  simp only [flagByte, lowBitOf]; revert a; decide

theorem toNat_highBit (a : Byte) : (flagByte (highBitOf a)).toNat = a.toNat / 128 := by
  simp only [flagByte, highBitOf]; revert a; decide

/-! Operand forms. -/

theorem toNat_zextNnn (nnn : Addr12) : (zextNnn nnn).toNat = nnn.toNat := by
  have := nnn.isLt
  simp [zextNnn]; omega

theorem toNat_glyphAddr (d : Byte) : (glyphAddr d).toNat = 0x50 + 5 * d.toNat := by
  have := d.isLt
  simp [glyphAddr, fontBase]; omega

theorem keyIndex_low (v : Byte) (k : Nibble) (h : v.toNat = k.toNat) : keyIndex v = .ok k := by
  have := k.isLt
  rw [keyIndex, if_neg (by omega)]
  congr 1
  apply BitVec.eq_of_toNat_eq
  simp; omega

theorem keyIndex_high (v : Byte) (h : v.toNat > 15) : keyIndex v = .error (.keyIndexOutOfRange v) := if_pos h

theorem State.lowestKey_none (h : ∀ k, s.key k = false) : s.lowestKey = none := by simp [State.lowestKey, h]

theorem State.lowestKey_some (k : Nibble) (hk : s.key k = true) (hl : ∀ j, j.toNat < k.toNat → s.key j = false) :
    s.lowestKey = some k := by
  have hlt : k.toNat < 16 := k.isLt
  refine List.find?_eq_some_iff_getElem.2 ⟨hk, k.toNat, by simpa using hlt, by simp, ?_⟩
  intro j hj
  rw [Bool.not_eq_true']
  exact hl _ (by simp; omega)

theorem mem_blockRegs (x k : Nibble) : k ∈ blockRegs x ↔ k.toNat ≤ x.toNat := by
  have hx := x.isLt
  simp only [blockRegs, List.mem_map, List.mem_range]
  constructor
  · rintro ⟨j, hj, rfl⟩
    simp; omega
  · intro h
    exact ⟨k.toNat, by omega, by simp⟩

theorem nodup_blockRegs (x : Nibble) : (blockRegs x).Nodup := by
  have hx := x.isLt
  refine List.Nodup.map_on ?_ List.nodup_range
  intro a ha b hb h
  simp only [List.mem_range] at ha hb
  have := congrArg BitVec.toNat h
  simp at this; omega

@[simp] theorem length_blockRegs (x : Nibble) : (blockRegs x).length = x.toNat + 1 := by simp [blockRegs]

theorem getElem_blockRegs (x k : Nibble) (h : k.toNat < (blockRegs x).length) : (blockRegs x)[k.toNat] = k := by
  simp [blockRegs]

/-- At most 4096 consecutive addresses stay distinct modulo 4096. -/
theorem nodup_wrapped (a n : Nat) (h : n ≤ 4096) : ((List.range n).map fun k => (a + k) % 4096).Nodup := by
  refine List.Nodup.map_on ?_ List.nodup_range
  intro x hx y hy hxy
  simp only [List.mem_range] at hx hy
  omega

/-- The block is in range, or it faults with the lowest address above 0xFFF: no third case. -/
theorem State.checkBlock_cases (n : Nat) :
    (s.InRange n ∧ s.blockFault n = none ∧
      s.checkBlock n = .ok ((List.range n).map fun k => (s.i.toNat + k) % 4096)) ∨
    (¬ s.InRange n ∧ s.params.addrMode = .fault ∧ s.blockFault n = some (.addressOutOfRange (max s.i.toNat 0x1000)) ∧
      s.checkBlock n = .error (.addressOutOfRange (max s.i.toNat 0x1000))) := by
  by_cases h : s.InRange n
  · refine .inl ⟨h, if_neg ?_, s.checkBlock_ok n h⟩
    rcases h with h | h | h
    · simp [h]
    · simp [h]
    · omega
  · have hm : s.params.addrMode = .fault := by cases hm : s.params.addrMode <;> simp_all [State.InRange]
    have h' : 0 < n ∧ 0x1000 < s.i.toNat + n := by simp only [State.InRange, not_or] at h; omega
    exact .inr ⟨h, hm, if_pos ⟨hm, h'.1, h'.2⟩, s.checkBlock_high n hm h'.1 h'.2⟩

/-! Frames of the updates. -/

theorem frame_setV (x : Nibble) (b : Byte) : Frame { regs := [x] } s (s.setV x b) := by
  simp only [Frame, State.getV_setV]; simp; grind

theorem frame_setPc (a : Word) : Frame { pc := true } s (s.setPc a) := by simp [Frame]

theorem State.pc_skipIf (c : Bool) : (s.skipIf c).pc = if c then s.pc + 2 else s.pc := by
  unfold State.skipIf; split <;> simp [*]

theorem frame_skipIf (c : Bool) : Frame { pc := true } s (s.skipIf c) := by
  unfold State.skipIf; split <;> simp [Frame]

theorem frame_writeAliased (x : Nibble) (y : Option Nibble) (f : Bool) (b : Byte) :
    Frame { regs := [x, 0xF#4] } s (s.writeAliased x y f b) := by
  obtain ⟨a, c, h⟩ := s.writeAliased_cases x y f b
  simp only [h, Frame, State.getV_setV, vf]; simp; grind

theorem frame_writeFlagged (x : Nibble) (f : Bool) (b : Byte) : Frame { regs := [x, 0xF#4] } s (s.writeFlagged x f b) := by
  simp only [State.writeFlagged, Frame, State.getV_setV, vf]; simp; grind

theorem frame_storeAll (l : List (Nat × Byte)) (as : List Nat) (h : ∀ a ∈ l.map Prod.fst, a ∈ as) :
    Frame { mem := as } s (s.storeAll l) := by
  have hm := fun a (ha : a ∉ as) => s.memByte_storeAll_other l a (fun hl => ha (h a hl))
  obtain ⟨m, e⟩ := s.storeAll_eq l
  rw [e] at hm ⊢
  exact ⟨fun _ _ => rfl, fun _ => rfl, fun _ => rfl, fun _ => rfl, fun _ _ => rfl, fun _ => rfl, fun _ => rfl, fun _ _ _ => rfl, hm,
    fun _ => rfl, rfl, rfl, rfl, rfl, rfl, rfl, rfl⟩

theorem frame_loadAll (l : List (Nibble × Nat)) (rs : List Nibble) (h : ∀ r ∈ l.map Prod.fst, r ∈ rs) :
    Frame { regs := rs } s (s.loadAll l) := by
  have hv := fun r (hr : r ∉ rs) => s.getV_loadAll_other l r (fun hl => hr (h r hl))
  obtain ⟨v, e⟩ := s.loadAll_eq l
  rw [e] at hv ⊢
  exact ⟨hv, fun _ => rfl, fun _ => rfl, fun _ => rfl, fun _ _ => rfl, fun _ => rfl, fun _ => rfl, fun _ _ _ => rfl, fun _ _ => rfl,
    fun _ => rfl, rfl, rfl, rfl, rfl, rfl, rfl, rfl⟩

/-! The host's question. -/

/-- The state that `withFetchWord` makes has no fault latched and fetches the word placed. -/
theorem State.placeWord_fetch (w : Word) (h : Memory.wf (Memory.background s.params.font) s.mem = true) :
    (s.placeWord w).fault = 0 ∧ (s.placeWord w).fetchWord = .ok w := by
  refine ⟨rfl, ?_⟩
  have hr : s.params.addrMode = .wrap12 ∨ s.fetchablePc.toNat ≤ 0xFFE := by
    by_cases hr : s.params.addrMode = .wrap12 ∨ s.pc.toNat ≤ 0xFFE
    · simp only [State.fetchablePc, s.fetchWord_ok hr]; exact hr
    · right
      have hm : s.params.addrMode = .fault := by cases hm : s.params.addrMode <;> simp_all
      simp only [State.fetchablePc, s.fetchWord_high hm (by omega)]
      decide
  have e := State.fetchWord_ok (s.placeWord w) hr
  rw [e]
  congr 1
  have hpc : (s.placeWord w).pc = s.fetchablePc := rfl
  let t : State := { s with fault := 0, pc := s.fetchablePc }
  have h1 := State.setMemByte_wf t (t.pc.toNat % 4096) (highByte w) (by omega) h
  have a1 : (s.placeWord w).memByte (s.fetchablePc.toNat % 4096) = highByte w := by
    refine (State.memByte_setMemByte_other _ _ _ _ ?_).trans (State.memByte_setMemByte_same t _ _ h)
    show s.fetchablePc.toNat % 4096 ≠ (s.fetchablePc.toNat + 1) % 4096
    omega
  have a2 : (s.placeWord w).memByte ((s.fetchablePc.toNat + 1) % 4096) = lowByte w :=
    State.memByte_setMemByte_same _ _ _ h1
  rw [hpc, a1, a2, wordOfBytes_high_low]

end Sys2Proof.Machine
end

