-- ==== Sys2Proof/Laws/Host.lean ====
section
/-! SUPPORT. The host's interface: what each part of the view reads, and what a step of the host's is. -/

namespace Sys2Proof.Machine

variable (s : State)

@[simp] theorem State.hostView_display : s.hostView.display = s.display := rfl
@[simp] theorem State.hostView_keypad : s.hostView.keypad = s.keys := rfl
@[simp] theorem State.hostView_soundTimer : s.hostView.soundTimer = s.st := rfl
@[simp] theorem State.hostView_faultStatus : s.hostView.faultStatus = (s.fault, s.faultPc, s.faultOp, s.faultInfo) := rfl

/-- The host's step is the core's step on the byte it names; the answer is read off the state that the step leaves. -/
theorem hostAct_step (b : Byte) (t : State) (h : stepRnd b s = .next t) : hostAct (.step b) s = .next (.step t.stepResult, t) := by
  simp only [hostAct, h]

end Sys2Proof.Machine
end

