-- ==== Sys2Proof/Laws/PerInstr.lean ====
section
/-! SUPPORT. Laws made per instruction. Family `TableRow`: the word the encoder builds for an instruction is one of its row of
spec/opcode_table.json (mask and match, with the masks of 90_conflicts C1). -/

namespace Sys2Proof.Laws.TableRow

/-- The mask and the match of the instruction's row of spec/opcode_table.json. -/
def maskMatch : Instr → Word × Word
  | .cls _ => (0xF00F, 0x0000)
  | .ret _ => (0xF00F, 0x000E)
  | .jp _ => (0xF000, 0x1000)
  | .call _ => (0xF000, 0x2000)
  | .seImm _ _ => (0xF000, 0x3000)
  | .sneImm _ _ => (0xF000, 0x4000)
  | .seReg _ _ _ => (0xF000, 0x5000)
  | .ldImm _ _ => (0xF000, 0x6000)
  | .addImm _ _ => (0xF000, 0x7000)
  | .mov _ _ => (0xF00F, 0x8000)
  | .or _ _ => (0xF00F, 0x8001)
  | .and _ _ => (0xF00F, 0x8002)
  | .xor _ _ => (0xF00F, 0x8003)
  | .add _ _ => (0xF00F, 0x8004)
  | .sub _ _ => (0xF00F, 0x8005)
  | .shr _ _ => (0xF00F, 0x8006)
  | .subn _ _ => (0xF00F, 0x8007)
  | .shl _ _ => (0xF00F, 0x800E)
  | .sneReg _ _ _ => (0xF000, 0x9000)
  | .ldI _ => (0xF000, 0xA000)
  | .jpV0 _ => (0xF000, 0xB000)
  | .rnd _ _ => (0xF000, 0xC000)
  | .drw _ _ _ => (0xF000, 0xD000)
  | .skp _ _ => (0xF00F, 0xE00E)
  | .sknp _ _ => (0xF00F, 0xE001)
  | .ldVxDt _ => (0xF0FF, 0xF007)
  | .ldVxK _ => (0xF0FF, 0xF00A)
  | .ldDtVx _ => (0xF0FF, 0xF015)
  | .ldStVx _ => (0xF0FF, 0xF018)
  | .addIVx _ => (0xF0FF, 0xF01E)
  | .ldFVx _ => (0xF0FF, 0xF029)
  | .ldBVx _ => (0xF0FF, 0xF033)
  | .ldMemVx _ => (0xF0FF, 0xF055)
  | .ldVxMem _ => (0xF0FF, 0xF065)

/-- The encoded word lies in the instruction's row. -/
def Statement (i : Instr) : Prop := encode i &&& (maskMatch i).1 = (maskMatch i).2

theorem wordXYN_low (p x y n : Nibble) : wordXYN p x y n &&& 0xF00F = wordXYN p 0 0 n := by
  ext i hi; simp only [wordXYN]; interval_cases i <;> simp <;> grind
theorem wordXYN_high (p x y n : Nibble) : wordXYN p x y n &&& 0xF000 = wordXYN p 0 0 0 := by
  ext i hi; simp only [wordXYN]; interval_cases i <;> simp <;> grind
theorem wordXNN_low (p x : Nibble) (nn : Byte) : wordXNN p x nn &&& 0xF0FF = wordXNN p 0 nn := by
  ext i hi; simp only [wordXNN]; interval_cases i <;> simp <;> grind
theorem wordXNN_high (p x : Nibble) (nn : Byte) : wordXNN p x nn &&& 0xF000 = wordXNN p 0 0 := by
  ext i hi; simp only [wordXNN]; interval_cases i <;> simp <;> grind
theorem wordNNN_high (p : Nibble) (nnn : Addr12) : wordNNN p nnn &&& 0xF000 = wordNNN p 0 := by
  ext i hi; simp only [wordNNN]; interval_cases i <;> simp <;> grind
theorem wordS_low (p : Nibble) (mid : Byte) (n : Nibble) : wordS p mid n &&& 0xF00F = wordS p 0 n := by
  ext i hi; simp only [wordS]; interval_cases i <;> simp <;> grind

theorem cls (ign : Byte) : Statement (.cls ign) := wordS_low _ _ _
theorem ret (ign : Byte) : Statement (.ret ign) := wordS_low _ _ _
theorem jp (nnn : Addr12) : Statement (.jp nnn) := wordNNN_high _ _
theorem call (nnn : Addr12) : Statement (.call nnn) := wordNNN_high _ _
theorem seImm (x : Nibble) (nn : Byte) : Statement (.seImm x nn) := wordXNN_high _ _ _
theorem sneImm (x : Nibble) (nn : Byte) : Statement (.sneImm x nn) := wordXNN_high _ _ _
theorem seReg (x : Nibble) (y : Nibble) (ign : Nibble) : Statement (.seReg x y ign) := wordXYN_high _ _ _ _
theorem ldImm (x : Nibble) (nn : Byte) : Statement (.ldImm x nn) := wordXNN_high _ _ _
theorem addImm (x : Nibble) (nn : Byte) : Statement (.addImm x nn) := wordXNN_high _ _ _
theorem mov (x : Nibble) (y : Nibble) : Statement (.mov x y) := wordXYN_low _ _ _ _
theorem or (x : Nibble) (y : Nibble) : Statement (.or x y) := wordXYN_low _ _ _ _
theorem and (x : Nibble) (y : Nibble) : Statement (.and x y) := wordXYN_low _ _ _ _
theorem xor (x : Nibble) (y : Nibble) : Statement (.xor x y) := wordXYN_low _ _ _ _
theorem add (x : Nibble) (y : Nibble) : Statement (.add x y) := wordXYN_low _ _ _ _
theorem sub (x : Nibble) (y : Nibble) : Statement (.sub x y) := wordXYN_low _ _ _ _
theorem shr (x : Nibble) (y : Nibble) : Statement (.shr x y) := wordXYN_low _ _ _ _
theorem subn (x : Nibble) (y : Nibble) : Statement (.subn x y) := wordXYN_low _ _ _ _
theorem shl (x : Nibble) (y : Nibble) : Statement (.shl x y) := wordXYN_low _ _ _ _
theorem sneReg (x : Nibble) (y : Nibble) (ign : Nibble) : Statement (.sneReg x y ign) := wordXYN_high _ _ _ _
theorem ldI (nnn : Addr12) : Statement (.ldI nnn) := wordNNN_high _ _
theorem jpV0 (nnn : Addr12) : Statement (.jpV0 nnn) := wordNNN_high _ _
theorem rnd (x : Nibble) (nn : Byte) : Statement (.rnd x nn) := wordXNN_high _ _ _
theorem drw (x : Nibble) (y : Nibble) (n : Nibble) : Statement (.drw x y n) := wordXYN_high _ _ _ _
theorem skp (x : Nibble) (ign : Nibble) : Statement (.skp x ign) := wordXYN_low _ _ _ _
theorem sknp (x : Nibble) (ign : Nibble) : Statement (.sknp x ign) := wordXYN_low _ _ _ _
theorem ldVxDt (x : Nibble) : Statement (.ldVxDt x) := wordXNN_low _ _ _
theorem ldVxK (x : Nibble) : Statement (.ldVxK x) := wordXNN_low _ _ _
theorem ldDtVx (x : Nibble) : Statement (.ldDtVx x) := wordXNN_low _ _ _
theorem ldStVx (x : Nibble) : Statement (.ldStVx x) := wordXNN_low _ _ _
theorem addIVx (x : Nibble) : Statement (.addIVx x) := wordXNN_low _ _ _
theorem ldFVx (x : Nibble) : Statement (.ldFVx x) := wordXNN_low _ _ _
theorem ldBVx (x : Nibble) : Statement (.ldBVx x) := wordXNN_low _ _ _
theorem ldMemVx (x : Nibble) : Statement (.ldMemVx x) := wordXNN_low _ _ _
theorem ldVxMem (x : Nibble) : Statement (.ldVxMem x) := wordXNN_low _ _ _

end Sys2Proof.Laws.TableRow
end

