-- ==== Sys2Proof/Tests/Slice0.lean ====
section
/-! SUPPORT. Tests on fixed values, from the vectors of 95_test_vectors and the encodings of 30_encoding, and one witness for every
statement that has hypotheses. -/

namespace Sys2Proof.Tests

open Sys2Proof.Machine

/-! The state helpers. -/

/-- The reset state with one word where the next step fetches it (0x200). -/
def word (w : Nat) : State := State.reset.withFetchWord 16 w

/-- The state one step later. -/
def after (s : State) : State :=
  match step s with
  | .next t => t
  | .fault _ => s
  | .refused _ => s

/-- The state after a meaning run on its own. -/
def ran (i : Instr) (s : State) : State :=
  match exec i s with
  | .next t => t
  | .fault _ => s
  | .refused _ => s

/-- The parameters replaced. -/
def wrap (s : State) : State := { s with params := { s.params with addrMode := .wrap12 } }

/-- VF_ALIAS = draw. -/
def draw (s : State) : State := { s with params := { s.params with vfAlias := .draw } }

/-- SP and one stack entry set. -/
def stacked (s : State) (sp : Fin 17) (k : Fin 16) (a : Word) : State := { s with sp := sp, stack := s.stack.set k.val a k.isLt }

/-! WellFormed: for each check a term it refuses, and the standard word it accepts (R316). -/

theorem test_wf_cls : (Instr.cls 0x00).wellFormed = false ∧ (Instr.cls 0x0E).wellFormed = true := by decide
theorem test_wf_ret : (Instr.ret 0xFF).wellFormed = false ∧ (Instr.ret 0x0E).wellFormed = true := by decide
theorem test_wf_seReg : (Instr.seReg 1 2 7).wellFormed = false ∧ (Instr.seReg 1 2 0).wellFormed = true := by decide
theorem test_wf_sneReg : (Instr.sneReg 1 2 0xF).wellFormed = false ∧ (Instr.sneReg 1 2 0).wellFormed = true := by decide
theorem test_wf_shr : (Instr.shr 4 1).wellFormed = false ∧ (Instr.shr 4 0).wellFormed = true := by decide
theorem test_wf_shl : (Instr.shl 4 0xE).wellFormed = false ∧ (Instr.shl 4 0).wellFormed = true := by decide
theorem test_wf_skp : (Instr.skp 5 0xA).wellFormed = false ∧ (Instr.skp 5 0x9).wellFormed = true := by decide
theorem test_wf_sknp : (Instr.sknp 5 0x9).wellFormed = false ∧ (Instr.sknp 5 0xA).wellFormed = true := by decide

/-! Decode: for every constructor a word written out from its encoding (P, then the fields of R301, R303, then the selectors of R305
to R309). -/

theorem test_decode_cls : decode 0b0000000011100000#16 = .ok (.cls 0x0E) := by decide
theorem test_decode_ret : decode 0b0000000011101110#16 = .ok (.ret 0x0E) := by decide
theorem test_decode_jp : decode 0b0001101010111100#16 = .ok (.jp 0xABC) := by decide
theorem test_decode_call : decode 0b0010001100000000#16 = .ok (.call 0x300) := by decide
theorem test_decode_seImm : decode 0b0011001101000010#16 = .ok (.seImm 3 0x42) := by decide
theorem test_decode_sneImm : decode 0b0100001101000010#16 = .ok (.sneImm 3 0x42) := by decide
theorem test_decode_seReg : decode 0b0101000100100000#16 = .ok (.seReg 1 2 0) := by decide
theorem test_decode_ldImm : decode 0b0110000000000101#16 = .ok (.ldImm 0 0x05) := by decide
theorem test_decode_addImm : decode 0b0111001000001010#16 = .ok (.addImm 2 0x0A) := by decide
theorem test_decode_mov : decode 0b1000001101010000#16 = .ok (.mov 3 5) := by decide
theorem test_decode_or : decode 0b1000001101010001#16 = .ok (.or 3 5) := by decide
theorem test_decode_and : decode 0b1000001101010010#16 = .ok (.and 3 5) := by decide
theorem test_decode_xor : decode 0b1000001101010011#16 = .ok (.xor 3 5) := by decide
theorem test_decode_add : decode 0b1000000000010100#16 = .ok (.add 0 1) := by decide
theorem test_decode_sub : decode 0b1000001101010101#16 = .ok (.sub 3 5) := by decide
theorem test_decode_shr : decode 0b1000010000000110#16 = .ok (.shr 4 0) := by decide
theorem test_decode_subn : decode 0b1000001101010111#16 = .ok (.subn 3 5) := by decide
theorem test_decode_shl : decode 0b1000010000001110#16 = .ok (.shl 4 0) := by decide
theorem test_decode_sneReg : decode 0b1001000100100000#16 = .ok (.sneReg 1 2 0) := by decide
theorem test_decode_ldI : decode 0b1010001011110000#16 = .ok (.ldI 0x2F0) := by decide
theorem test_decode_jpV0 : decode 0b1011001100000000#16 = .ok (.jpV0 0x300) := by decide
theorem test_decode_rnd : decode 0b1100001100001111#16 = .ok (.rnd 3 0x0F) := by decide
theorem test_decode_drw : decode 0b1101000100100101#16 = .ok (.drw 1 2 5) := by decide
theorem test_decode_skp : decode 0b1110010110011110#16 = .ok (.skp 5 9) := by decide
theorem test_decode_sknp : decode 0b1110010110100001#16 = .ok (.sknp 5 0xA) := by decide
theorem test_decode_ldVxDt : decode 0b1111001100000111#16 = .ok (.ldVxDt 3) := by decide
theorem test_decode_ldVxK : decode 0b1111001000001010#16 = .ok (.ldVxK 2) := by decide
theorem test_decode_ldDtVx : decode 0b1111001000010101#16 = .ok (.ldDtVx 2) := by decide
theorem test_decode_ldStVx : decode 0b1111001000011000#16 = .ok (.ldStVx 2) := by decide
theorem test_decode_addIVx : decode 0b1111000100011110#16 = .ok (.addIVx 1) := by decide
theorem test_decode_ldFVx : decode 0b1111000000101001#16 = .ok (.ldFVx 0) := by decide
theorem test_decode_ldBVx : decode 0b1111001100110011#16 = .ok (.ldBVx 3) := by decide
theorem test_decode_ldMemVx : decode 0b1111001001010101#16 = .ok (.ldMemVx 2) := by decide
theorem test_decode_ldVxMem : decode 0b1111001001100101#16 = .ok (.ldVxMem 2) := by decide

/-- Both edges of the unmapped ranges of each table (R306 to R309, R311). -/
theorem test_decode_unmapped :
    decode 0x0001 = .error .unmapped0 ∧ decode 0x0FFD = .error .unmapped0 ∧ decode 0x000F = .error .unmapped0 ∧
    decode 0x8008 = .error .unmapped8 ∧ decode 0x8FFD = .error .unmapped8 ∧ decode 0x800F = .error .unmapped8 ∧
    decode 0xE000 = .error .unmappedE ∧ decode 0xE002 = .error .unmappedE ∧ decode 0xE19F = .error .unmappedE ∧
    decode 0xF000 = .error .unmappedF ∧ decode 0xF3FF = .error .unmappedF ∧ decode 0xF066 = .error .unmappedF := by decide

theorem test_decodeBytes_truncated : decodeBytes [0x80] = .error .truncated ∧ decodeBytes [] = .error .truncated := by decide
theorem test_tableWord : decodeTableWord 16 0x8014 = some (.add 0 1) ∧ decodeTableWord 16 0x8008 = none := by decide

/-- The host's question on a state that fetches elsewhere and with a fault latched: the word is fetched and runs. -/
theorem test_withFetchWord :
    (after ({ word 0x8008 with fault := 1, pc := 0x10FE }.withFetchWord 16 0x6A42)).getV 0xA = 0x42 := by decide

/-! Display (V-DSP-1, V-DSP-2, V-DSP-4, V-DSP-5, V-DSP-6, V-ENC-3). -/

/-- A state with the pixel (x, y) turned on. -/
def lit (s : State) (x y : Nat) : State := s.setFb (s.fb.toggle x y)

theorem test_cls :
    let t := after ((lit (lit (word 0x0120) 0 0) 63 31).setV 0xF 1)
    t.pixel 0 0 = false ∧ t.pixel 63 31 = false ∧ t.getV 0xF = 1 ∧ t.pc = 0x202 := by decide

/-- V-DSP-2: glyph 0 at (0, 0). -/
theorem test_drw_glyph :
    let t := after ((word 0xD015).setI 0x50)
    t.getV 0xF = 0 ∧ t.pixel 0 0 = true ∧ t.pixel 3 0 = true ∧ t.pixel 4 0 = false ∧ t.pixel 0 1 = true ∧ t.pixel 1 1 = false ∧
      t.pixel 3 1 = true ∧ t.pixel 2 4 = true ∧ t.pixel 0 5 = false := by decide

/-- V-DSP-4: the start position (70, 40) is (6, 8), and a lit pixel under the sprite is a collision. -/
theorem test_drw_collision :
    let t := after (lit (((((word 0xD011).setI 0x300).setMemByte 0x300 0x80).setV 0 70).setV 1 40) 6 8)
    t.pixel 6 8 = false ∧ t.getV 0xF = 1 := by decide

/-! Control transfer (V-CF, V-ENC-4). -/

theorem test_ret :
    let t := after (stacked (word 0x0FFE) 1 0 0x222)
    t.pc = 0x222 ∧ t.sp = 0 ∧ t.stackAt 0 = 0x222 := by decide
theorem test_ret_empty :
    let t := after (word 0x00EE)
    t.fault = 3 ∧ t.faultInfo = 0 ∧ t.faultOp = 0x00EE ∧ t.faultPc = 0x200 ∧ t.pc = 0x200 ∧ t.sp = 0 := by decide
theorem test_jp_self :
    let t := after (((word 0x1200).setSt 5).setDt 1)
    t.pc = 0x200 ∧ t.st = 4 ∧ t.dt = 0 := by decide
theorem test_call :
    let t := after (stacked (word 0x2ABC) 3 2 0x304)
    t.stackAt 3 = 0x202 ∧ t.stackAt 2 = 0x304 ∧ t.sp = 4 ∧ t.pc = 0xABC := by decide
theorem test_call_full :
    let t := after (stacked (word 0x2ABC) 16 15 0x300)
    t.fault = 2 ∧ t.faultInfo = 16 ∧ t.faultOp = 0x2ABC ∧ t.sp = 16 ∧ t.stackAt 15 = 0x300 ∧ t.pc = 0x200 := by decide
theorem test_seImm : (after ((word 0x3012).setV 0 0x12)).pc = 0x204 ∧ (after ((word 0x3012).setV 0 0x13)).pc = 0x202 := by decide
theorem test_sneImm : (after ((word 0x4012).setV 0 0x12)).pc = 0x202 ∧ (after ((word 0x4012).setV 0 0x13)).pc = 0x204 := by decide
theorem test_seReg : (after (((word 0x5127).setV 1 7).setV 2 7)).pc = 0x204 ∧ (after ((word 0x5120).setV 1 7)).pc = 0x202 := by decide
theorem test_sneReg : (after (((word 0x9120).setV 1 7).setV 2 8)).pc = 0x204 ∧ (after (word 0x9120)).pc = 0x202 := by decide
theorem test_jpV0 : (after ((word 0xBFFF).setV 0 0xFF)).pc = 0x10FE ∧ (after (after ((word 0xBFFF).setV 0 0xFF))).faultStatus =
    (4, 0x10FE, 0x0000, 0x10FE) := by decide

/-! Immediate (V-IMM). -/

theorem test_ldImm : (after (word 0x6AFF)).getV 0xA = 0xFF ∧ (after (word 0x6AFF)).pc = 0x202 := by decide
theorem test_addImm :
    let t := after (((word 0x7A01).setV 0xA 0xFF).setV 0xF 5)
    t.getV 0xA = 0 ∧ t.getV 0xF = 5 := by decide
theorem test_ldI : (after (word 0xA123)).i = 0x123 := by decide
/-- V-IMM-5: rnd = B7. The named byte is used up by the step. -/
theorem test_rnd :
    let t := after ((word 0xC30F).withRnd 0xB7)
    t.getV 3 = 7 ∧ t.rnd = none := by decide

/-! Register arithmetic (V-ALU, L1-6, L1-7). -/

/-- The reset state with one word and two registers. -/
def two (w : Nat) (x : Nibble) (a : Byte) (y : Nibble) (b : Byte) : State := ((word w).setV x a).setV y b

theorem test_mov : (after (two 0x8120 1 1 2 0x42)).getV 1 = 0x42 := by decide
theorem test_or : (after (two 0x8121 1 0xF0 2 0x0F)).getV 1 = 0xFF ∧ (after (two 0x8121 1 0xF0 0xF 7)).getV 0xF = 7 := by decide
theorem test_and : (after (two 0x8122 1 0xF3 2 0x3C)).getV 1 = 0x30 := by decide
theorem test_xor : (after (two 0x8123 1 0xFF 2 0x0F)).getV 1 = 0xF0 := by decide
theorem test_add : let t := after (two 0x8014 0 250 1 10); t.getV 0 = 4 ∧ t.getV 1 = 10 ∧ t.getV 0xF = 1 := by decide
/-- X = F: the sum stands (V-ALU-9 for SUB likewise). -/
theorem test_add_vf : (after (two 0x8F14 0xF 0xFF 1 2)).getV 0xF = 1 ∧ (after (two 0x80F4 0 1 0xF 0xFF)).getV 0xF = 1 := by decide
theorem test_sub : let t := after (two 0x8015 0 5 1 10); t.getV 0 = 0xFB ∧ t.getV 0xF = 0 := by decide
/-- V-ALU-7 (equal operands clear the flag) and V-ALU-9 (the difference overwrites the flag). -/
theorem test_sub_corners : (after (two 0x8015 0 7 1 7)).getV 0xF = 0 ∧ (after (two 0x8F15 0xF 9 1 3)).getV 0xF = 6 := by decide
theorem test_shr : let t := after (two 0x8016 0 5 1 0xFF); t.getV 0 = 2 ∧ t.getV 0xF = 1 := by decide
theorem test_shr_vf : (after ((word 0x8F06).setV 0xF 3)).getV 0xF = 1 := by decide
theorem test_subn : let t := after (two 0x8017 0 3 1 10); t.getV 0 = 7 ∧ t.getV 0xF = 1 := by decide
theorem test_subn_borrow : let t := after (two 0x8017 0 10 1 3); t.getV 0 = 0xF9 ∧ t.getV 0xF = 0 := by decide
theorem test_shl : let t := after (two 0x801E 0 0x81 1 0); t.getV 0 = 2 ∧ t.getV 0xF = 1 := by decide
theorem test_shl_vf : (after ((word 0x8F0E).setV 0xF 0x81)).getV 0xF = 2 := by decide
/-! Keypad and timers (V-KT). -/

theorem test_skp :
    (after (((word 0xE19E).setV 1 5).setKey 5 true)).pc = 0x204 ∧ (after ((word 0xE19E).setV 1 5)).pc = 0x202 := by decide
theorem test_skp_index :
    let t := after ((word 0xE19E).setV 1 16)
    t.fault = 5 ∧ t.faultInfo = 0x10 ∧ t.pc = 0x200 := by decide
theorem test_sknp :
    (after (((word 0xE1A1).setV 1 5).setKey 5 true)).pc = 0x202 ∧ (after ((word 0xE191).setV 1 5)).pc = 0x204 := by decide
theorem test_ldVxDt : let t := after ((word 0xF307).setDt 9); t.getV 3 = 9 ∧ t.dt = 8 := by decide
theorem test_ldVxK_wait :
    let t := after (((word 0xF30A).setV 3 0x55).setDt 2)
    t.getV 3 = 0x55 ∧ t.pc = 0x200 ∧ t.dt = 1 := by decide
theorem test_ldVxK_lowest :
    let t := after (((word 0xF30A).setKey 3 true).setKey 0xC true)
    t.getV 3 = 3 ∧ t.pc = 0x202 := by decide
theorem test_ldDtVx : (after ((word 0xF315).setV 3 5)).dt = 4 ∧ (after ((word 0xF315).setDt 7)).dt = 0 := by decide
theorem test_ldStVx : (after ((word 0xF318).setV 3 1)).st = 0 ∧ (after ((word 0xF318).setV 3 4)).soundOn = true := by decide

/-! Index and memory (V-IM). -/

theorem test_addIVx :
    let t := after ((((word 0xF31E).setI 0xFFF).setV 3 2).setV 0xF 9)
    t.i = 0x1001 ∧ t.getV 0xF = 9 ∧ t.fault = 0 := by decide
theorem test_addIVx_wraps : (after (((word 0xF31E).setI 0xFFFF).setV 3 2)).i = 1 := by decide
theorem test_ldFVx : (after ((word 0xF329).setV 3 0x0A)).i = 0x82 ∧ (after ((word 0xF329).setV 3 0x10)).i = 0xA0 := by decide
theorem test_ldBVx :
    let t := after (((word 0xF333).setV 3 0xFE).setI 0x300)
    t.memByte 0x300 = 2 ∧ t.memByte 0x301 = 5 ∧ t.memByte 0x302 = 4 ∧ t.i = 0x300 := by decide
/-- V-IM-7: ADDR_MODE = wrap12. -/
theorem test_ldBVx_wrap :
    let t := after (wrap (((word 0xF333).setV 3 7).setI 0xFFE))
    t.memByte 0xFFE = 0 ∧ t.memByte 0xFFF = 0 ∧ t.memByte 0 = 7 ∧ t.pc = 0x202 := by decide
theorem test_ldMemVx :
    let t := after ((((((word 0xF255).setV 0 1).setV 1 2).setV 2 3).setV 3 4).setI 0x300)
    t.memByte 0x300 = 1 ∧ t.memByte 0x301 = 2 ∧ t.memByte 0x302 = 3 ∧ t.memByte 0x303 = 0 ∧ t.i = 0x300 := by decide
/-- V-IM-9. -/
theorem test_ldMemVx_range :
    let t := after ((((word 0xF255).setV 0 1).setV 1 2).setI 0xFFE)
    t.fault = 4 ∧ t.faultInfo = 0x1000 ∧ t.memByte 0xFFE = 0 ∧ t.memByte 0xFFF = 0 := by decide
theorem test_ldVxMem :
    let t := after (((((word 0xF265).setMemByte 0x300 9).setMemByte 0x302 7).setV 3 0x99).setI 0x300)
    t.getV 0 = 9 ∧ t.getV 1 = 0 ∧ t.getV 2 = 7 ∧ t.getV 3 = 0x99 ∧ t.i = 0x300 := by decide
/-- V-IM-11: the last address is 0xFFF, no fault. -/
theorem test_ldVxMem_top : (after (((word 0xFF65).setI 0xFF0).setV 0xF 1)).getV 0xF = 0 ∧ (after ((word 0xFF65).setI 0xFF0)).fault = 0 := by
  decide

/-! The step, reset and load (V-MEM, L1). -/

theorem test_reset_runs_cls : (after State.reset).pc = 0x202 := by decide
/-- V-MEM-1, V-MEM-2: the fetch at FFE and at FFF. -/
theorem test_fetch_top :
    (after (State.reset.setPc 0xFFE)).pc = 0x1000 ∧ (after (State.reset.setPc 0xFFF)).faultStatus = (4, 0xFFF, 0, 0x1000) := by decide
/-- V-MEM-3: wrap12. -/
theorem test_fetch_wraps :
    let t := after (wrap (((State.reset.setPc 0xFFF).setMemByte 0xFFF 0x61).setMemByte 0 0x23))
    t.getV 1 = 0x23 ∧ t.pc = 0x1001 := by decide
/-- V-MEM-4: an odd PC. -/
theorem test_fetch_odd :
    let t := after (((State.reset.setPc 0x201).setMemByte 0x201 0x60).setMemByte 0x202 0x42)
    t.getV 0 = 0x42 ∧ t.pc = 0x203 := by decide
/-- V-MEM-5, V-MEM-6: an unmapped word, the step after it, and reset. -/
theorem test_unknown :
    let t := after (word 0x8008)
    t.faultStatus = (1, 0x200, 0x8008, 0) ∧ after t = t ∧ t.stepResult = .fault 1 ∧ t.doReset = State.reset := by decide
/-- L1-3, L1-9: a loaded program; its first step. -/
theorem test_load :
    let t := (State.reset.load [0x60, 0x05, 0x61, 0x0A, 0x80, 0x14]).2
    t.memByte 0x204 = 0x80 ∧ t.memByte 0x205 = 0x14 ∧ (after t).getV 0 = 5 := by decide

/-- The default font at the addresses of R115's table: glyphs 0, 5, A and F (L1-2). -/
theorem test_font :
    [0x50, 0x51, 0x69, 0x6A, 0x82, 0x83, 0x9B, 0x9E, 0x9F, 0xA0].map State.reset.memByte =
      [0xF0, 0x90, 0xF0, 0x80, 0xF0, 0x90, 0xF0, 0x80, 0x80, 0x00] := by decide

/-! Witnesses: for each statement with hypotheses, concrete values that meet all of them, one for each clause, at the edges. -/

theorem witness_EncodeInvertsDecode : decode 0xF265 = .ok (.ldVxMem 2) := by decide

/-- Each clause of R311's table at both edges, and the mapped words beside them. -/
theorem witness_UnmappedWordsExactly :
    [0x0001, 0x0FFF, 0x8008, 0x8FFF, 0xE000, 0xEFFF, 0xF000, 0xFFFF].map (fun w : Word => (decode w).toOption.isSome) =
      [false, false, false, false, false, false, false, false] ∧
    [0x0000, 0x000E, 0x8007, 0x800E, 0xE001, 0xE00E, 0xF007, 0xFF65].map (fun w : Word => (decode w).toOption.isSome) =
      [true, true, true, true, true, true, true, true] := by decide

theorem witness_UnexaminedBitsDecodeAlike :
    (0x0FF0 : Word).toNat / 4096 = 0x0 ∧ (0x0FF0 : Word).toNat % 16 = 0x0 ∧ (0x0FFE : Word).toNat / 4096 = 0x0 ∧
    (0x0FFE : Word).toNat % 16 = 0xE ∧ (0x5FFF : Word).toNat / 4096 = 0x5 ∧ (0x9FFF : Word).toNat / 4096 = 0x9 ∧
    (0xEFFE : Word).toNat / 4096 = 0xE ∧ (0xEFFE : Word).toNat % 16 = 0xE ∧ (0xEFF1 : Word).toNat / 4096 = 0xE ∧
    (0xEFF1 : Word).toNat % 16 = 0x1 := by decide

theorem witness_StepRunsDecodedInstruction :
    (word 0x8014).fault = 0 ∧ (word 0x8014).fetchWord = .ok 0x8014 ∧ decode 0x8014 = .ok (.add 0 1) ∧
      ∃ t, exec (.add 0 1) (word 0x8014).skip = .next t :=
  ⟨by decide, by decide, by decide, _, rfl⟩

theorem witness_FetchIsBigEndian :
    (State.reset.setPc 0xFFE).pc.toNat ≤ 0xFFE ∧ (wrap (State.reset.setPc 0xFFFF)).params.addrMode = .wrap12 := by decide

/-- Both branches: PC = 0xFFF and PC = 0x1000. -/
theorem witness_FetchOutOfRangeFaults :
    (State.reset.setPc 0xFFF).fault = 0 ∧ (State.reset.setPc 0xFFF).params.addrMode = .fault ∧
    0xFFE < (State.reset.setPc 0xFFF).pc.toNat ∧ 0xFFE < (State.reset.setPc 0x1000).pc.toNat := by decide

theorem witness_UnmappedWordFaults :
    (word 0x8128).fault = 0 ∧ (word 0x8128).fetchWord = .ok 0x8128 ∧ decode 0x8128 = .error .unmapped8 := by decide

theorem witness_LatchedFaultStopsTheCore : (after (word 0x8008)).fault ≠ 0 := by decide

/-- A fault with the word fetched (RET on an empty stack), and one of the fetch itself. -/
theorem witness_FaultEntryDiscardsTheStep :
    ((word 0x00EE).fault = 0 ∧ step (word 0x00EE) = .next (after (word 0x00EE)) ∧ (after (word 0x00EE)).fault ≠ 0 ∧
      (word 0x00EE).fetchWord = .ok 0x00EE) ∧
    ((State.reset.setPc 0xFFF).fault = 0 ∧ step (State.reset.setPc 0xFFF) = .next (after (State.reset.setPc 0xFFF)) ∧
      (after (State.reset.setPc 0xFFF)).fault ≠ 0 ∧ (State.reset.setPc 0xFFF).fetchWord = .error (.addressOutOfRange 0x1000)) :=
  ⟨⟨by decide, rfl, by decide, by decide⟩, by decide, rfl, by decide, by decide⟩

/-- The own check failing at its edge (SP = 16, V1 = 16, I + 2 = 0x1000) and passing just below it. -/
theorem witness_InstructionFaultsExactly :
    (stacked (word 0x2ABC) 16 0 0).fault = 0 ∧ (stacked (word 0x2ABC) 16 0 0).fetchWord = .ok 0x2ABC ∧
    decode 0x2ABC = .ok (.call 0xABC) ∧ ownFault (.call 0xABC) (stacked (word 0x2ABC) 16 0 0) = some .stackOverflow ∧
    ownFault (.call 0xABC) (stacked (word 0x2ABC) 15 0 0) = none ∧
    ownFault (.skp 1 9) ((word 0xE19E).setV 1 16) = some (.keyIndexOutOfRange 16) ∧
    ownFault (.skp 1 9) ((word 0xE19E).setV 1 15) = none ∧
    ownFault (.ldBVx 3) ((word 0xF333).setI 0xFFE) = some (.addressOutOfRange 0x1000) ∧
    ownFault (.ldBVx 3) ((word 0xF333).setI 0xFFD) = none := by decide

/-- A step that takes no fault and runs FX15, one that runs FX18, one that runs neither, and a step that faults. -/
theorem witness_TimersTickEveryStep :
    (step (word 0xF315) = .next (after (word 0xF315)) ∧ (after (word 0xF315)).fault = 0 ∧ (word 0xF315).fetchWord = .ok 0xF315 ∧
      decode 0xF315 = .ok (.ldDtVx 3)) ∧
    (step (word 0xF318) = .next (after (word 0xF318)) ∧ (after (word 0xF318)).fault = 0 ∧ (word 0xF318).fetchWord = .ok 0xF318 ∧
      decode 0xF318 = .ok (.ldStVx 3)) ∧
    (step (word 0x1200) = .next (after (word 0x1200)) ∧ (after (word 0x1200)).fault = 0 ∧ (word 0x1200).fetchWord = .ok 0x1200 ∧
      decode 0x1200 = .ok (.jp 0x200)) ∧
    step (word 0x0001) = .next (after (word 0x0001)) ∧ (after (word 0x0001)).fault ≠ 0 :=
  ⟨⟨rfl, by decide, by decide, by decide⟩, ⟨rfl, by decide, by decide, by decide⟩, ⟨rfl, by decide, by decide, by decide⟩, rfl, by decide⟩

/-- Two quiet steps from DT = 2: FX18 does not rewrite DT, and a jump to itself rewrites neither. -/
theorem witness_TimersCountDownAndStay :
    (∃ t, RunsQuietly keepsDt 2 ((word 0x1200).setDt 2) t) ∧ ((word 0x1200).setDt 2).dt.toNat ≤ 2 ∧
    (∃ t, RunsQuietly keepsDt 1 ((word 0xF318).setDt 2) t) ∧
    (∃ t, RunsQuietly keepsSt 1 ((word 0xF315).setSt 1) t) ∧ ((word 0xF315).setSt 1).st.toNat ≤ 1 :=
  ⟨⟨_, 0x1200, .jp 0x200, _, rfl, by decide, by decide, nofun, rfl, by decide,
      0x1200, .jp 0x200, _, by decide, by decide, by decide, nofun, rfl, by decide, rfl⟩, by decide,
    ⟨_, 0xF318, .ldStVx 3, _, rfl, by decide, by decide, nofun, rfl, by decide, rfl⟩,
    ⟨_, 0xF315, .ldDtVx 3, _, rfl, by decide, by decide, nofun, rfl, by decide, rfl⟩, by decide⟩

/-- States that meet the invariant under each clause of the fault status: SP = 16 with CALL's fault, SP = 0 with RET's, an unmapped word,
an address, a key number. -/
theorem witness_StepKeepsInvariant :
    (after (stacked (word 0x2ABC) 16 0 0)).Inv ∧ (after (word 0x00EE)).Inv ∧ (after (word 0x0001)).Inv ∧
    (after (State.reset.setPc 0x10FE)).Inv ∧ (after ((word 0xE19E).setV 1 0xFF)).Inv ∧
    step (after (word 0x0001)) = .next (after (after (word 0x0001))) :=
  ⟨⟨rfl, fun _ => ⟨by decide, by decide⟩, .inr ⟨by decide, .inr (.inl ⟨by decide, by decide, by decide, 0xABC, by decide⟩)⟩⟩,
    ⟨rfl, fun _ => ⟨by decide, by decide⟩, .inr ⟨by decide, .inr (.inr (.inl ⟨by decide, by decide, by decide, 0x0E, by decide⟩))⟩⟩,
    ⟨rfl, fun _ => ⟨by decide, by decide⟩, .inr ⟨by decide, .inl ⟨by decide, by decide, .unmapped0, by decide⟩⟩⟩,
    ⟨rfl, fun _ => ⟨by decide, by decide⟩, .inr ⟨by decide, .inr (.inr (.inr (.inl ⟨by decide, by decide, by decide⟩)))⟩⟩,
    ⟨rfl, fun _ => ⟨by decide, by decide⟩, .inr ⟨by decide, .inr (.inr (.inr (.inr ⟨by decide, by decide, by decide⟩)))⟩⟩,
    rfl⟩

/-- The largest program; and a state that meets the invariant. -/
theorem witness_HostKeepsInvariant : (List.replicate 3584 (0xAB : Byte)).length ≤ 3584 ∧ (after (word 0x0001)).Inv :=
  ⟨Nat.le_of_eq List.length_replicate, witness_StepKeepsInvariant.2.2.1⟩

/-- Both outcomes, at SP = 15 and SP = 16. -/
theorem witness_InstructionsChangeOnlyTheirFootprint :
    (∃ t, exec (.call 0x300) (stacked State.reset 15 0 0) = .next t ∧ ownFault (.call 0x300) (stacked State.reset 15 0 0) = none) ∧
    ∃ t, exec (.call 0x300) (stacked State.reset 16 0 0) = .next t ∧
      ownFault (.call 0x300) (stacked State.reset 16 0 0) = some .stackOverflow :=
  ⟨⟨_, rfl, by decide⟩, _, rfl, by decide⟩

theorem witness_OnlyStoresChangeMemory :
    step (((word 0xF055).setV 0 7).setI 0xFFF) = .next (after (((word 0xF055).setV 0 7).setI 0xFFF)) ∧
    (after (((word 0xF055).setV 0 7).setI 0xFFF)).memByte 0xFFF ≠ (((word 0xF055).setV 0 7).setI 0xFFF).memByte 0xFFF ∧
    step (((word 0xF333).setV 3 0xFE).setI 0xFFD) = .next (after (((word 0xF333).setV 3 0xFE).setI 0xFFD)) ∧
    (after (((word 0xF333).setV 3 0xFE).setI 0xFFD)).memByte 0xFFF ≠ (((word 0xF333).setV 3 0xFE).setI 0xFFD).memByte 0xFFF :=
  ⟨rfl, by decide, rfl, by decide⟩

/-- FX55 just past the font keeps it. -/
theorem witness_FontSurvivesRuns : ∃ t, RunsQuietly sparesFont 1 (((word 0xF055).setV 0 7).setI 0xA0) t :=
  ⟨_, 0xF055, .ldMemVx 0, _, rfl, by decide, by decide,
    (by decide : ∀ a ∈ (footprint (.ldMemVx 0) (((word 0xF055).setV 0 7).setI 0xA0)).mem, ¬ (0x50 ≤ a ∧ a < 0xA0)), rfl, by decide, rfl⟩

theorem witness_StepsLeaveKeypadAndParameters : step (word 0xF30A) = .next (after (word 0xF30A)) := rfl

theorem witness_OnlyListedInstructionsChangeVf :
    exec (.add 0 1) (two 0x8014 0 0xFF 1 1) = .next (ran (.add 0 1) (two 0x8014 0 0xFF 1 1)) ∧
    (ran (.add 0 1) (two 0x8014 0 0xFF 1 1)).getV 0xF#4 ≠ (two 0x8014 0 0xFF 1 1).getV 0xF#4 :=
  ⟨rfl, by decide⟩

/-- In range with a lit pixel under the sprite and with none, at the last address; and out of range by one. -/
theorem witness_DrawTogglesUnderTheSprite :
    State.InRange (lit ((State.reset.setI 0xFFE).setMemByte 0xFFF 0x80) 0 1) (0x2#4 : Nibble).toNat ∧
    (lit ((State.reset.setI 0xFFE).setMemByte 0xFFF 0x80) 0 1).pixel 0 1 = true ∧
    (lit ((State.reset.setI 0xFFE).setMemByte 0xFFF 0x80) 0 1).underSprite 2 0 0 0 1 = true ∧
    (∀ a b, a < 64 → b < 32 → State.reset.pixel a b = true → State.reset.underSprite 2 0 0 a b = false) ∧
    ¬ (State.reset.setI 0xFFF).InRange (0x2#4 : Nibble).toNat :=
  ⟨.inr (.inr (by decide)), by decide, by decide, fun a b _ _ h => absurd h (by simp [State.pixel, State.reset, Framebuffer.at]),
    by rintro (h | h | h) <;> exact absurd h (by decide)⟩

/-- The same word twice, the second in the place that the first leaves PC at. -/
def drawTwice : State := ((((word 0xD121).setMemByte 0x202 0xD1).setMemByte 0x203 0x21).setMemByte 0x300 0x80).setI 0x300

theorem witness_DrawTwiceRestoresTheScreen :
    (1#4 : Nibble) ≠ 0xF#4 ∧ (2#4 : Nibble) ≠ 0xF#4 ∧ drawTwice.fault = 0 ∧ drawTwice.fetchWord = .ok (encode (.drw 1#4 2#4 1#4)) ∧
    step drawTwice = .next (after drawTwice) ∧ (after drawTwice).fault = 0 ∧
    (after drawTwice).fetchWord = .ok (encode (.drw 1#4 2#4 1#4)) ∧
    step (after drawTwice) = .next (after (after drawTwice)) ∧ (after (after drawTwice)).fault = 0 :=
  ⟨by decide, by decide, by decide, by decide, rfl, by decide, by decide, rfl, by decide⟩

theorem witness_CallPushesReturnAddress :
    (stacked State.reset 0 0 0).sp.val = (0 : Fin 16).val ∧ (stacked State.reset 15 0 0).sp.val = (15 : Fin 16).val ∧
    (stacked State.reset 16 0 0).sp.val = 16 := by decide

theorem witness_ReturnPopsThePc :
    (stacked State.reset 1 0 0).sp.val = (0 : Fin 16).val + 1 ∧ (stacked State.reset 16 0 0).sp.val = (15 : Fin 16).val + 1 ∧
    (stacked State.reset 0 0 0).sp.val = 0 := by decide

theorem witness_ReturnUndoesCall :
    (stacked State.reset 15 0 0).sp.val = (15 : Fin 16).val ∧ ∃ t, exec (.call 0x300) (stacked State.reset 15 0 0) = .next t :=
  ⟨by decide, _, rfl⟩

theorem witness_AddSetsCarry : (0xE#4 : Nibble) ≠ 0xF#4 := by decide

/-- `latched` with X = F, and `draw` with X and Y not F. -/
theorem witness_SubtractsSetNoBorrow :
    State.reset.params.vfAlias = .latched ∧
    ((draw State.reset).params.vfAlias = .draw ∧ (0xE#4 : Nibble) ≠ 0xF#4) := by decide

theorem witness_ShiftsMoveOneBit :
    State.reset.params.vfAlias = .latched ∧ (draw State.reset).params.vfAlias = .draw ∧ (0xE#4 : Nibble) ≠ 0xF#4 := by decide

/-- V-ALU-26 (8F15): the step completes; V1, PC and the fault status are as with `latched`. -/
theorem witness_OpenAliasCasesComplete :
    (draw (two 0x8F15 0xF 9 1 3)).params.vfAlias = .draw ∧
    (after (draw (two 0x8F15 0xF 9 1 3))).getV 1 = 3 ∧ (after (draw (two 0x8F15 0xF 9 1 3))).pc = 0x202 ∧
    (after (draw (two 0x8F15 0xF 9 1 3))).fault = 0 := by decide

theorem witness_KeySkipsReadTheKey :
    ((State.reset.setV 1 15).getV 1).toNat = (0xF#4 : Nibble).toNat ∧ ((State.reset.setV 1 16).getV 1).toNat > 15 := by decide

theorem witness_KeyWaitTakesLowestKey :
    (∀ k, State.reset.key k = false) ∧ (State.reset.setKey 0xF true).key 0xF#4 = true ∧
    (∀ j : Nibble, j.toNat < (0xF#4 : Nibble).toNat → (State.reset.setKey 0xF true).key j = false) := by decide

/-- The last block in range, `wrap12` over the top, and one address past the last block. -/
theorem witness_BcdStoresThreeDigits :
    (State.reset.setI 0xFFD).MemOk ∧ (State.reset.setI 0xFFD).InRange 3 ∧
    (wrap (State.reset.setI 0xFFE)).MemOk ∧ (wrap (State.reset.setI 0xFFE)).InRange 3 ∧
    (State.reset.setI 0xFFE).MemOk ∧ ¬ (State.reset.setI 0xFFE).InRange 3 :=
  ⟨rfl, .inr (.inr (by decide)), rfl, .inl (by decide), rfl, by rintro (h | h | h) <;> exact absurd h (by decide)⟩

theorem witness_StoreRegistersAtIndex :
    (State.reset.setI 0xFF0).MemOk ∧ (State.reset.setI 0xFF0).InRange ((0xF#4 : Nibble).toNat + 1) ∧
    (State.reset.setI 0xFFF).InRange ((0#4 : Nibble).toNat + 1) ∧
    (State.reset.setI 0xFF1).MemOk ∧ ¬ (State.reset.setI 0xFF1).InRange ((0xF#4 : Nibble).toNat + 1) :=
  ⟨rfl, .inr (.inr (by decide)), .inr (.inr (by decide)), rfl, by rintro (h | h | h) <;> exact absurd h (by decide)⟩

theorem witness_LoadRegistersFromIndex :
    (State.reset.setI 0xFF0).InRange ((0xF#4 : Nibble).toNat + 1) ∧ (wrap (State.reset.setI 0xFFF)).InRange ((0xF#4 : Nibble).toNat + 1) ∧
    ¬ (State.reset.setI 0x1000).InRange ((0#4 : Nibble).toNat + 1) :=
  ⟨.inr (.inr (by decide)), .inl (by decide), by rintro (h | h | h) <;> exact absurd h (by decide)⟩

/-- The state after FX55 itself is such a later state. -/
theorem witness_StoredRegistersLoadBack :
    (State.reset.setI 0xFF0).MemOk ∧ (State.reset.setI 0xFF0).InRange ((0xF#4 : Nibble).toNat + 1) ∧
    exec (.ldMemVx 0xF#4) (State.reset.setI 0xFF0) = .next (ran (.ldMemVx 0xF#4) (State.reset.setI 0xFF0)) ∧
    (ran (.ldMemVx 0xF#4) (State.reset.setI 0xFF0)).params = (State.reset.setI 0xFF0).params ∧
    (ran (.ldMemVx 0xF#4) (State.reset.setI 0xFF0)).i = (State.reset.setI 0xFF0).i :=
  ⟨rfl, .inr (.inr (by decide)), rfl, rfl, rfl⟩

/-- FX55 with X = 1 at the last word of memory, then PC there. -/
theorem witness_FetchSeesStoredBytes :
    (State.reset.setI 0xFFE).MemOk ∧ (State.reset.setI 0xFFE).InRange ((1#4 : Nibble).toNat + 1) ∧ 1 ≤ (1#4 : Nibble).toNat ∧
    exec (.ldMemVx 1#4) (State.reset.setI 0xFFE) = .next (ran (.ldMemVx 1#4) (State.reset.setI 0xFFE)) ∧
    ((ran (.ldMemVx 1#4) (State.reset.setI 0xFFE)).setPc 0xFFE).params = (ran (.ldMemVx 1#4) (State.reset.setI 0xFFE)).params ∧
    ((ran (.ldMemVx 1#4) (State.reset.setI 0xFFE)).setPc 0xFFE).pc = (State.reset.setI 0xFFE).i :=
  ⟨rfl, .inr (.inr (by decide)), by decide, rfl, rfl, rfl⟩

theorem witness_AddressCheckFaultsOrWraps : 0xFFF ≤ 0xFFF ∧ 0xFFF < 0x1000 := by decide

theorem witness_ResetSetsEveryElement : (0x50 ≤ 0x9F ∧ 0x9F < 0xA0) ∧ ¬ (0x50 ≤ 0x4F ∧ 0x4F < 0xA0) ∧ ¬ (0x50 ≤ 0xA0 ∧ 0xA0 < 0xA0) := by
  decide

/-- The largest program, and none. -/
theorem witness_LoadCopiesTheProgram :
    (List.replicate 3584 (0xAB : Byte)).length ≤ 3584 ∧ ([] : List Byte).length ≤ 3584 :=
  ⟨Nat.le_of_eq List.length_replicate, by decide⟩

/-- One byte too many, under both values of LOAD_FAIL_RESETS. -/
theorem witness_LoadTooLargeChangesNothing :
    3584 < (List.replicate 3585 (0x01 : Byte)).length ∧ State.reset.params.loadFailResets = false ∧
    ({ State.reset with params := { State.reset.params with loadFailResets := true } } : State).params.loadFailResets = true :=
  ⟨Nat.lt_of_lt_of_eq (by decide) List.length_replicate.symm, by decide, by decide⟩

/-- The last element, and one in the first row. -/
theorem witness_DisplayIsRowMajor :
    63 < 64 ∧ 31 < 32 ∧ (lit State.reset 1 0).display[1]? = some true ∧ (lit State.reset 1 0).display[0]? = some false :=
  ⟨by decide, by decide, rfl, rfl⟩

/-! The host's interface (R140, R141, R143, R761). -/

/-- A change of a register, of memory, of I and of DT is not seen (R143); a key, the sound timer and the fault status are (R141). -/
theorem test_hostView :
    ((((State.reset.setV 3 7).setMemByte 0x300 1).setI 5).setDt 9).hostView = State.reset.hostView ∧
    (State.reset.setKey 5 true).hostView.keypad[5] = true ∧ (State.reset.setSt 3).hostView.soundTimer = 3 ∧
    (after (word 0x8008)).hostView.faultStatus = (1, 0x200, 0x8008, 0) :=
  ⟨rfl, by decide, by decide, by decide⟩

/-- V-MEM-5 as the host sees it, and V-IMM-5 with the byte it hands to the step. -/
theorem test_hostAct :
    hostAct (.step 0) (word 0x8008) = .next (.step (.fault 1), { word 0x8008 with
      fault := 1, faultPc := 0x200, faultOp := 0x8008, rnd := some 0 }) ∧
    (∃ t, hostAct (.step 0xB7) (word 0xC30F) = .next (.step .ok, t) ∧ t.getV 3 = 7) :=
  ⟨rfl, _, rfl, by decide⟩

/-- Each action of the host, a load at both sides of its size check among them. -/
theorem witness_HostActionsAnswerWhatTheSurfacesShow :
    (∃ t, hostAct .reset (word 0x8008) = .next (.nothing, t)) ∧ (∃ t, hostAct (.setKey 5 true) State.reset = .next (.nothing, t)) ∧
    (∃ t, hostAct (.step 0) State.reset = .next (.step .ok, t)) ∧
    ¬ (List.replicate 3585 (0x01 : Byte)).length ≤ 3584 ∧ (List.replicate 3584 (0x01 : Byte)).length ≤ 3584 :=
  ⟨⟨_, rfl⟩, ⟨_, rfl⟩, ⟨_, rfl⟩,
    Nat.not_le.2 (Nat.lt_of_lt_of_eq (by decide) List.length_replicate.symm), Nat.le_of_eq List.length_replicate⟩

end Sys2Proof.Tests
end

/-! What an instruction and a step can do to the state (10_state, 30_encoding R320), each said once: the frame of every instruction, or the
fault it takes; then the cases of a step. -/

namespace Sys2Proof.Machine

/-! What a frame says of each element. -/

section

variable {fp : Footprint} {s t : State}

theorem Frame.getV (h : Frame fp s t) : ∀ r, r ∉ fp.regs → t.getV r = s.getV r := h.1

theorem Frame.pc (h : Frame fp s t) : fp.pc = false → t.pc = s.pc := by
  obtain ⟨-, hpc, -⟩ := h
  exact hpc

theorem Frame.stackAt (h : Frame fp s t) : ∀ k, k ∉ fp.stack → t.stackAt k = s.stackAt k := by
  obtain ⟨-, -, -, -, hstack, -⟩ := h
  exact hstack

theorem Frame.key (h : Frame fp s t) : ∀ k, t.key k = s.key k := by
  obtain ⟨-, -, -, -, -, -, -, -, -, hkey, -⟩ := h
  exact hkey

theorem Frame.faultStatus (h : Frame fp s t) : t.faultStatus = s.faultStatus := by
  obtain ⟨-, -, -, -, -, -, -, -, -, -, hfault, hpc, hop, hinfo, -⟩ := h
  simp [State.faultStatus, hfault, hpc, hop, hinfo]

theorem Frame.params (h : Frame fp s t) : t.params = s.params := by
  obtain ⟨-, -, -, -, -, -, -, -, -, -, -, -, -, -, hparams, -⟩ := h
  exact hparams

/-- A frame with more registers in the footprint says less. -/
theorem Frame.mono_regs (h : Frame fp s t) (rs : List Nibble) (hsub : fp.regs ⊆ rs) : Frame { fp with regs := rs } s t :=
  ⟨fun r hr => h.getV r fun hm => hr (hsub hm), h.2⟩

/-- A frame whose footprint allows PC says less. -/
theorem Frame.mono_pc (h : Frame fp s t) : Frame { fp with pc := true } s t := by
  obtain ⟨hv, -, hrest⟩ := h
  exact ⟨hv, nofun, hrest⟩

end

/-! Frames of the updates that no frame lemma covers yet. -/

theorem frame_setI (s : State) (a : Word) : Frame { i := true } s (s.setI a) := by simp [Frame]

theorem frame_setDt (s : State) (b : Byte) : Frame { dt := true } s (s.setDt b) := by simp [Frame]

theorem frame_setSt (s : State) (b : Byte) : Frame { st := true } s (s.setSt b) := by simp [Frame]

theorem frame_setFb (s : State) (fb : Framebuffer) : Frame { fb := true } s (s.setFb fb) := by simp [Frame]

/-- The writes of DRW: VF cleared, the framebuffer, VF again (R402). -/
theorem frame_setVf_setFb_setVf (s : State) (b c : Byte) (fb : Framebuffer) :
    Frame { regs := [0xF#4], fb := true } s (((s.setV vf b).setFb fb).setV vf c) := by
  simp +contextual [Frame, State.getV_setV, vf]

/-- The writes of CALL: the pushed entry, SP, PC (R453). -/
theorem frame_call (s : State) (h : s.sp.val < 16) (a b : Word) (sp : Fin 17) :
    Frame { pc := true, sp := true, stack := s.pushSlot } s
      (State.setPc { s with stack := s.stack.set s.sp.val a h, sp := sp } b) := by
  have hstack : ∀ k : Fin 16, k ∉ s.pushSlot → (s.stack.set s.sp.val a h)[k.val] = s.stack[k.val] := by
    intro k hk
    refine Vector.getElem_set_ne _ _ fun e => hk ?_
    simp [State.pushSlot, e]
  exact ⟨fun _ _ => rfl, nofun, fun _ => rfl, nofun, hstack, fun _ => rfl, fun _ => rfl, fun _ _ _ => rfl, fun _ _ => rfl,
    fun _ => rfl, rfl, rfl, rfl, rfl, rfl, rfl, rfl⟩

/-- The writes of RET: SP and PC (R451). -/
theorem frame_ret (s : State) (a : Word) (sp : Fin 17) :
    Frame { pc := true, sp := true } s (State.setPc { s with sp := sp } a) :=
  ⟨fun _ _ => rfl, nofun, fun _ => rfl, nofun, fun _ _ => rfl, fun _ => rfl, fun _ => rfl, fun _ _ _ => rfl, fun _ _ => rfl,
    fun _ => rfl, rfl, rfl, rfl, rfl, rfl, rfl, rfl⟩

theorem map_fst_zip_subset {α β : Type} (l : List α) (m : List β) : ∀ a ∈ (l.zip m).map Prod.fst, a ∈ l := by
  intro a ha
  obtain ⟨c, hc, rfl⟩ := List.mem_map.1 ha
  exact (List.of_mem_zip hc).1

/-- The writes of FX33 and FX55: bytes at the checked addresses of the block (R208). -/
theorem frame_storeAll_blockTouched {s : State} {n : Nat} {addrs : List Nat} (hc : s.checkBlock n = .ok addrs) (bytes : List Byte) :
    Frame { mem := s.blockTouched n } s (s.storeAll (addrs.zip bytes)) := by
  have htouched : s.blockTouched n = addrs := by simp [State.blockTouched, hc]
  exact htouched ▸ frame_storeAll s _ _ (map_fst_zip_subset _ _)

/-! Which updates keep the canonical form of memory. -/

theorem State.memOk_skipIf (s : State) (c : Bool) (h : s.MemOk) : (s.skipIf c).MemOk := by
  cases c <;> exact h

theorem State.memOk_writeAliased (s : State) (x : Nibble) (y : Option Nibble) (f : Bool) (b : Byte) (h : s.MemOk) :
    (s.writeAliased x y f b).MemOk := by
  obtain ⟨c, d, e⟩ := s.writeAliased_cases x y f b
  exact e ▸ h

theorem State.memOk_loadAll (s : State) (l : List (Nibble × Nat)) (h : s.MemOk) : (s.loadAll l).MemOk := by
  obtain ⟨v, e⟩ := s.loadAll_eq l
  exact e ▸ h

/-- The checked addresses of a block are below 4096, so a store to them keeps the form. -/
theorem State.memOk_storeAll_zip (s : State) {n : Nat} {addrs : List Nat} (hc : s.checkBlock n = .ok addrs) (bytes : List Byte)
    (h : s.MemOk) : (s.storeAll (addrs.zip bytes)).MemOk :=
  s.storeAll_wf _ (fun a ha => (s.checkBlock_lt n addrs hc).2 a (map_fst_zip_subset _ _ a ha)) h

/-! CALL, RET, FX0A, SKP and SKNP by their cases (R451, R453, R604, R600). -/

section

variable {s : State}

theorem exec_call_full (nnn : Addr12) (h : s.sp.val = 16) :
    exec (.call nnn) s = s.raise (encode (.call nnn)) .stackOverflow := by
  simp only [exec, execCall, s.push_full _ h]

theorem exec_call_push (nnn : Addr12) (h : s.sp.val < 16) :
    exec (.call nnn) s = .next (State.setPc
      { s with stack := s.stack.set s.sp.val s.pc h, sp := ⟨s.sp.val + 1, by omega⟩ } (zextNnn nnn)) := by
  simp only [exec, execCall, s.push_some _ h]

theorem exec_ret_empty (ign : Byte) (h : s.sp.val = 0) :
    exec (.ret ign) s = s.raise (encode (.ret ign)) .stackUnderflow := by
  simp only [exec, execRet, s.pop_empty h]

theorem exec_ret_pop (ign : Byte) (h : 0 < s.sp.val) :
    exec (.ret ign) s = .next (State.setPc { s with sp := ⟨s.sp.val - 1, by omega⟩ } (s.stackAt ⟨s.sp.val - 1, by omega⟩)) := by
  simp only [exec, execRet, s.pop_some h]

theorem exec_ldVxK_none (x : Nibble) (h : s.lowestKey = none) : exec (.ldVxK x) s = .next s.rewind := by
  simp only [exec, execLdVxK, h]

theorem exec_ldVxK_some (x : Nibble) {k : Nibble} (h : s.lowestKey = some k) :
    exec (.ldVxK x) s = .next (s.setV x (k.setWidth 8)) := by
  simp only [exec, execLdVxK, h]

theorem keyIndex_of_le {v : Byte} (h : v.toNat ≤ 15) : keyIndex v = .ok (v.setWidth 4) := if_neg (by omega)

theorem exec_skp_high (x ign : Nibble) (h : (s.getV x).toNat > 15) :
    exec (.skp x ign) s = s.raise (encode (.skp x ign)) (.keyIndexOutOfRange (s.getV x)) := by
  simp only [exec, execSkp, keyIndex_high _ h]

theorem exec_skp_low (x ign : Nibble) (h : (s.getV x).toNat ≤ 15) :
    exec (.skp x ign) s = .next (s.skipIf (s.key ((s.getV x).setWidth 4))) := by
  simp only [exec, execSkp, keyIndex_of_le h]

theorem exec_sknp_high (x ign : Nibble) (h : (s.getV x).toNat > 15) :
    exec (.sknp x ign) s = s.raise (encode (.sknp x ign)) (.keyIndexOutOfRange (s.getV x)) := by
  simp only [exec, execSknp, keyIndex_high _ h]

theorem exec_sknp_low (x ign : Nibble) (h : (s.getV x).toNat ≤ 15) :
    exec (.sknp x ign) s = .next (s.skipIf (!(s.key ((s.getV x).setWidth 4)))) := by
  simp only [exec, execSknp, keyIndex_of_le h]

end

/-! Every instruction: its frame, or the fault of its own check. -/

/-- The two ways an instruction can end: its own check passes and it keeps its frame and the canonical form of memory, or it raises the
fault of its check. -/
def EndsAs (i : Instr) (s : State) : Prop :=
  (ownFault i s = none ∧ ∃ t, exec i s = .next t ∧ Frame (footprint i s) s t ∧ (s.MemOk → t.MemOk)) ∨
  ∃ f, ownFault i s = some f ∧ exec i s = s.raise (encode i) f

/-- The instructions that access a block at I (DRW, FX33, FX55, FX65): every address is checked before `k` writes (R204, R713). -/
theorem endsAs_block {i : Instr} {s : State} {n : Nat} {k : List Nat → State} (hown : ownFault i s = s.blockFault n)
    (hexec : exec i s = match s.checkBlock n with
      | .error f => s.raise (encode i) f
      | .ok addrs => .next (k addrs))
    (hk : ∀ addrs, s.checkBlock n = .ok addrs → Frame (footprint i s) s (k addrs) ∧ (s.MemOk → (k addrs).MemOk)) : EndsAs i s := by
  rcases s.checkBlock_cases n with ⟨-, hf, hc⟩ | ⟨-, -, hf, hc⟩
  · exact .inl ⟨hown.trans hf, _, by rw [hexec, hc], hk _ hc⟩
  · exact .inr ⟨_, hown.trans hf, by rw [hexec, hc]⟩

/-- SKP and SKNP: the key index is checked before the skip (R600). -/
theorem endsAs_keySkip {i : Instr} {s : State} {v : Byte} {c : Bool}
    (hown : ownFault i s = if v.toNat > 15 then some (.keyIndexOutOfRange v) else none) (hfp : footprint i s = { pc := true })
    (hhigh : v.toNat > 15 → exec i s = s.raise (encode i) (.keyIndexOutOfRange v))
    (hlow : v.toNat ≤ 15 → exec i s = .next (s.skipIf c)) : EndsAs i s := by
  by_cases h : v.toNat > 15
  · exact .inr ⟨_, hown.trans (if_pos h), hhigh h⟩
  · exact .inl ⟨hown.trans (if_neg h), _, hlow (by omega), hfp ▸ frame_skipIf s _, s.memOk_skipIf _⟩

theorem endsAs_call (nnn : Addr12) (s : State) : EndsAs (.call nnn) s := by
  by_cases h : s.sp.val = 16
  · exact .inr ⟨_, if_pos h, exec_call_full nnn h⟩
  · exact .inl ⟨if_neg h, _, exec_call_push nnn (by omega), frame_call s (by omega) _ _ _, id⟩

theorem endsAs_ret (ign : Byte) (s : State) : EndsAs (.ret ign) s := by
  by_cases h : s.sp.val = 0
  · exact .inr ⟨_, if_pos h, exec_ret_empty ign h⟩
  · exact .inl ⟨if_neg h, _, exec_ret_pop ign (by omega), frame_ret s _ _, id⟩

theorem endsAs_ldVxK (x : Nibble) (s : State) : EndsAs (.ldVxK x) s := by
  cases h : s.lowestKey with
  | none => exact .inl ⟨rfl, _, exec_ldVxK_none x h, (frame_setPc s _).mono_regs [x] (List.nil_subset _), id⟩
  | some k => exact .inl ⟨rfl, _, exec_ldVxK_some x h, (frame_setV s x _).mono_pc, id⟩

theorem endsAs (i : Instr) (s : State) : EndsAs i s := by
  cases i with
  | cls => exact .inl ⟨rfl, _, rfl, frame_setFb s _, id⟩
  | ret ign => exact endsAs_ret ign s
  | call nnn => exact endsAs_call nnn s
  | jp | jpV0 => exact .inl ⟨rfl, _, rfl, frame_setPc s _, id⟩
  | seImm | sneImm | seReg | sneReg => exact .inl ⟨rfl, _, rfl, frame_skipIf s _, s.memOk_skipIf _⟩
  | ldImm | addImm | rnd | mov | or | and | xor | ldVxDt => exact .inl ⟨rfl, _, rfl, frame_setV s _ _, id⟩
  | add => exact .inl ⟨rfl, _, rfl, frame_writeFlagged s _ _ _, id⟩
  | sub | shr | subn | shl => exact .inl ⟨rfl, _, rfl, frame_writeAliased s _ _ _ _, s.memOk_writeAliased _ _ _ _⟩
  | ldI | addIVx | ldFVx => exact .inl ⟨rfl, _, rfl, frame_setI s _, id⟩
  | ldDtVx => exact .inl ⟨rfl, _, rfl, frame_setDt s _, id⟩
  | ldStVx => exact .inl ⟨rfl, _, rfl, frame_setSt s _, id⟩
  | ldVxK x => exact endsAs_ldVxK x s
  | skp x ign => exact endsAs_keySkip rfl rfl (exec_skp_high x ign) (exec_skp_low x ign)
  | sknp x ign => exact endsAs_keySkip rfl rfl (exec_sknp_high x ign) (exec_sknp_low x ign)
  | drw => exact endsAs_block rfl rfl fun _ _ => ⟨frame_setVf_setFb_setVf s _ _ _, id⟩
  | ldBVx | ldMemVx =>
    exact endsAs_block rfl rfl fun _ hc => ⟨frame_storeAll_blockTouched hc _, s.memOk_storeAll_zip hc _⟩
  | ldVxMem =>
    exact endsAs_block rfl rfl fun _ _ => ⟨frame_loadAll s _ _ (map_fst_zip_subset _ _), s.memOk_loadAll _⟩

/-- The outcome of an instruction that answers `t`: the frame of its footprint, or its own fault latched with PC taken back. -/
theorem exec_cases {i : Instr} {s t : State} (h : exec i s = .next t) :
    (ownFault i s = none ∧ Frame (footprint i s) s t) ∨
    ∃ f, ownFault i s = some f ∧ t = s.rewind.latch (s.pc - 2) (encode i) f := by
  rcases endsAs i s with ⟨hown, u, hu, hframe, -⟩ | ⟨f, hown, hf⟩
  · cases h.symm.trans hu
    exact .inl ⟨hown, hframe⟩
  · exact .inr ⟨f, hown, Host.Outcome.next.inj (h.symm.trans hf)⟩

theorem exec_memOk {i : Instr} {s t : State} (h : exec i s = .next t) (hs : s.MemOk) : t.MemOk := by
  rcases endsAs i s with ⟨-, u, hu, -, hmem⟩ | ⟨f, -, hf⟩
  · cases h.symm.trans hu
    exact hmem hs
  · cases h.symm.trans hf
    exact hs

theorem sp_lt_of_ownFault_call {nnn : Addr12} {s : State} (h : ownFault (.call nnn) s = none) : s.sp.val < 16 := by
  have : s.sp.val ≠ 16 := by simpa [ownFault] using h
  omega

theorem sp_pos_of_ownFault_ret {ign : Byte} {s : State} (h : ownFault (.ret ign) s = none) : 0 < s.sp.val := by
  have : s.sp.val ≠ 0 := by simpa [ownFault] using h
  omega

end Sys2Proof.Machine

/-! What a step can do (30_encoding R320, 60_exceptions R710). -/

namespace Sys2Proof.Machine

/-! The branches of `step` (R320). -/

section

variable {s : State}

theorem step_latched (h : s.fault ≠ 0) : step s = .next s := if_pos h

theorem step_fetch_error {f : Fault} (h0 : s.fault = 0) (hfetch : s.fetchWord = .error f) :
    step s = .next (s.latch s.pc 0 f) := by
  simp [step, h0, hfetch]

theorem step_decode_error {op : Word} {e : DecodeError} (h0 : s.fault = 0) (hfetch : s.fetchWord = .ok op)
    (hdec : decode op = .error e) : step s = .next (s.latch s.pc op .unknownInstruction) := by
  simp [step, h0, hfetch, hdec]

theorem step_decode_ok {op : Word} {i : Instr} (h0 : s.fault = 0) (hfetch : s.fetchWord = .ok op) (hdec : decode op = .ok i) :
    step s = finishOut (exec i s.skip) := by
  simp [step, h0, hfetch, hdec]

end

/-! The outcomes of a step. -/

/-- The fault that a step raises from `s`, with the word it leaves in FAULT_OP: by the fetch (no word), by decode, or by the instruction's
own check (R700). -/
inductive State.Raises (s : State) : Word → Fault → Prop where
  | fetch {f : Fault} (hfetch : s.fetchWord = .error f) : s.Raises 0 f
  | decode {op : Word} {e : DecodeError} (hfetch : s.fetchWord = .ok op) (hdec : decode op = .error e) :
      s.Raises op .unknownInstruction
  | check {op : Word} {i : Instr} {f : Fault} (hfetch : s.fetchWord = .ok op) (hdec : decode op = .ok i)
      (hown : ownFault i s.skip = some f) : s.Raises (encode i) f

/-- From `s` the step runs the instruction `i`, which raises no fault and leaves `u`. -/
structure State.Runs (s : State) (i : Instr) (u : State) : Prop where
  fetches : ∃ op, s.fetchWord = .ok op ∧ decode op = .ok i
  passes : ownFault i s.skip = none
  execs : exec i s.skip = .next u
  frame : Frame (footprint i s.skip) s.skip u

/-- The three outcomes of a step: nothing with a fault latched (R712), a fault taken at the state before the step (R710), or an instruction
run to its end, then the tick (R323). -/
theorem step_cases {s t : State} (h : step s = .next t) :
    (s.fault ≠ 0 ∧ t = s) ∨
    (s.fault = 0 ∧ ∃ op f, s.Raises op f ∧ t = s.latch s.pc op f) ∨
    (s.fault = 0 ∧ ∃ i u, s.Runs i u ∧ t = u.timerTick.nextInputs) := by
  by_cases h0 : s.fault = 0
  case neg => exact .inl ⟨h0, Host.Outcome.next.inj (h.symm.trans (step_latched h0))⟩
  refine .inr ?_
  cases hfetch : s.fetchWord with
  | error f => exact .inl ⟨h0, 0, f, .fetch hfetch, Host.Outcome.next.inj (h.symm.trans (step_fetch_error h0 hfetch))⟩
  | ok op =>
    cases hdec : decode op with
    | error e =>
      exact .inl ⟨h0, op, _, .decode hfetch hdec, Host.Outcome.next.inj (h.symm.trans (step_decode_error h0 hfetch hdec))⟩
    | ok i =>
      rw [step_decode_ok h0 hfetch hdec] at h
      rcases endsAs i s.skip with ⟨hpass, u, hexec, hframe, -⟩ | ⟨f, hown, hexec⟩
      · have hu : u.fault = 0 := (congrArg Prod.fst hframe.faultStatus).trans h0
        rw [hexec, finishOut, State.finish_clear u hu, Host.Outcome.next.injEq] at h
        exact .inr ⟨h0, i, u, ⟨⟨op, hfetch, hdec⟩, hpass, hexec, hframe⟩, h.symm⟩
      · rw [hexec, State.raise_skip, finishOut, State.finish_faulted _ (State.latch_fault_ne _ _ _ _),
          Host.Outcome.next.injEq] at h
        exact .inl ⟨h0, _, f, .check hfetch hdec hown, h.symm⟩

/-! Which faults there are: the rows of R700. -/

theorem State.blockFault_some {s : State} {n : Nat} {f : Fault} (h : s.blockFault n = some f) :
    s.params.addrMode = .fault ∧ ∃ a, 0xFFF < a ∧ a < 2 ^ 17 ∧ f = .addressOutOfRange a := by
  have hi : s.i.toNat < 2 ^ 16 := s.i.isLt
  rcases s.checkBlock_cases n with ⟨-, hf, -⟩ | ⟨-, hm, hf, -⟩
  · simp [hf] at h
  · exact ⟨hm, max s.i.toNat 0x1000, by omega, by omega, by simpa [hf] using h.symm⟩

theorem State.fetchWord_error {s : State} {f : Fault} (h : s.fetchWord = .error f) :
    s.params.addrMode = .fault ∧ ∃ a, 0xFFF < a ∧ a < 2 ^ 17 ∧ f = .addressOutOfRange a := by
  have hpc : s.pc.toNat < 2 ^ 16 := s.pc.isLt
  by_cases hr : s.params.addrMode = .wrap12 ∨ s.pc.toNat ≤ 0xFFE
  · simp [s.fetchWord_ok hr] at h
  · have hm : s.params.addrMode = .fault := by cases hm : s.params.addrMode <;> simp_all
    rw [s.fetchWord_high hm (by omega), Except.error.injEq] at h
    exact ⟨hm, _, by split <;> omega, by split <;> omega, h.symm⟩

/-- With ADDR_MODE = fault a fetch that succeeds stays in memory (R205). -/
theorem State.pc_le_of_fetchWord {s : State} {op : Word} (hm : s.params.addrMode = .fault) (h : s.fetchWord = .ok op) :
    s.pc.toNat ≤ 0xFFE := by
  by_contra hpc
  rw [s.fetchWord_high hm (by omega)] at h
  cases h

end Sys2Proof.Machine

/-! The invariant over a step: each of its three parts on its own (Safety.lean, `State.Inv`). -/

namespace Sys2Proof.Machine

/-! The fault status. -/

theorem decode_encode_call (nnn : Addr12) : decode (encode (.call nnn)) = .ok (.call nnn) := by simp [decode, encode]

theorem decode_encode_ret (ign : Byte) : decode (encode (.ret ign)) = .ok (.ret ign) := by simp [decode, decode0, encode]

/-- With no fault latched the other fault registers are clear too. -/
theorem State.FaultOk.clear {s : State} (h : s.FaultOk) (h0 : s.fault = 0) : s.faultStatus = (0, 0, 0, 0) := by
  rcases h with ⟨hf, hpc, hop, hinfo⟩ | ⟨-, ⟨hf, -⟩ | ⟨hf, -⟩ | ⟨hf, -⟩ | ⟨hf, -⟩ | ⟨hf, -⟩⟩
  · simp [State.faultStatus, hf, hpc, hop, hinfo]
  all_goals simp [hf] at h0

theorem State.faultOk_of_clear {s : State} (h : s.faultStatus = (0, 0, 0, 0)) : s.FaultOk := by
  simp only [State.faultStatus, Prod.mk.injEq] at h
  exact .inl h

/-- Row 4 of R700: an address above 0xFFF, reported in FAULT_INFO's 17 bits. -/
theorem State.faultOk_latch_address {s : State} {f : Fault} (op : Word)
    (h : s.params.addrMode = .fault ∧ ∃ a, 0xFFF < a ∧ a < 2 ^ 17 ∧ f = .addressOutOfRange a) : (s.latch s.pc op f).FaultOk := by
  obtain ⟨hm, a, hlow, hhigh, rfl⟩ := h
  have ha : (BitVec.ofNat 17 a).toNat = a := Nat.mod_eq_of_lt hhigh
  exact .inr ⟨rfl, .inr (.inr (.inr (.inl ⟨rfl, hm, ha.symm ▸ hlow⟩)))⟩

/-- Row 5 of R700: V[X] above 15, zero-extended into FAULT_INFO. -/
theorem State.faultOk_latch_key {s : State} {k : Byte} (op : Word) (h : k.toNat > 15) :
    (s.latch s.pc op (.keyIndexOutOfRange k)).FaultOk := by
  have hk : k.toNat < 256 := k.isLt
  have hinfo : (k.setWidth 17).toNat = k.toNat := BitVec.toNat_setWidth_of_le (by decide)
  exact .inr ⟨rfl, .inr (.inr (.inr (.inr ⟨rfl, hinfo.symm ▸ h, by simp only [State.latch_faultInfo, Fault.info]; omega⟩)))⟩

/-- The fault of an instruction's own check, latched at the instruction, is that of a row of R700. -/
theorem State.faultOk_latch_ownFault {s : State} {i : Instr} {f : Fault} (h : ownFault i s.skip = some f) :
    (s.latch s.pc (encode i) f).FaultOk := by
  cases i with
  | call nnn =>
    obtain ⟨hsp, rfl⟩ := Option.ite_some_none_eq_some.1 h
    exact .inr ⟨rfl, .inr (.inl ⟨rfl, rfl, hsp, nnn, decode_encode_call nnn⟩)⟩
  | ret ign =>
    obtain ⟨hsp, rfl⟩ := Option.ite_some_none_eq_some.1 h
    exact .inr ⟨rfl, .inr (.inr (.inl ⟨rfl, rfl, hsp, ign, decode_encode_ret ign⟩))⟩
  | skp | sknp =>
    obtain ⟨hk, rfl⟩ := Option.ite_some_none_eq_some.1 h
    exact State.faultOk_latch_key _ hk
  | drw | ldBVx | ldMemVx | ldVxMem => exact State.faultOk_latch_address _ (State.blockFault_some (s := s.skip) h)
  | _ => cases h

theorem State.Raises.faultOk {s : State} {op : Word} {f : Fault} (h : s.Raises op f) : (s.latch s.pc op f).FaultOk := by
  cases h with
  | fetch hfetch => exact State.faultOk_latch_address 0 (State.fetchWord_error hfetch)
  | decode hfetch hdec => exact .inr ⟨rfl, .inl ⟨rfl, rfl, _, hdec⟩⟩
  | check hfetch hdec hown => exact State.faultOk_latch_ownFault hown

/-! PC and the return addresses. -/

/-- What an instruction can leave in PC: PC as it was, past the next word (a skip), back at the instruction (FX0A, a fault), a jump target
(at most 0xFFF + 0xFF, R458), or a stack entry (RET). -/
def PcTarget (s : State) (a : Word) : Prop :=
  a = s.pc ∨ a = s.pc + 2 ∨ a = s.pc - 2 ∨ a.toNat ≤ 0x10FE ∨ ∃ k, a = s.stackAt k

theorem pcTarget_skipIf (s : State) (c : Bool) : PcTarget s (s.skipIf c).pc := by
  rw [State.pc_skipIf]
  cases c <;> simp [PcTarget]

theorem pcTarget_zextNnn (s : State) (nnn : Addr12) : PcTarget s (zextNnn nnn) := by
  have hlt : nnn.toNat < 4096 := nnn.isLt
  exact .inr (.inr (.inr (.inl (by rw [toNat_zextNnn]; omega))))

theorem pcTarget_offset (s : State) (nnn : Addr12) (v : Byte) :
    PcTarget s (BitVec.ofNat 16 ((zextNnn nnn).toNat + v.toNat)) := by
  have hnnn : nnn.toNat < 4096 := nnn.isLt
  have hv : v.toNat < 256 := v.isLt
  refine .inr (.inr (.inr (.inl ?_)))
  rw [toNat_zextNnn, BitVec.toNat_ofNat]
  omega

theorem exec_pcTarget {i : Instr} {s t : State} (h : exec i s = .next t) : PcTarget s t.pc := by
  rcases exec_cases h with ⟨hpass, hframe⟩ | ⟨f, -, rfl⟩
  case inr => exact .inr (.inr (.inl rfl))
  cases i with
  | jp nnn =>
    cases h
    exact pcTarget_zextNnn s nnn
  | call nnn =>
    have hsp := sp_lt_of_ownFault_call hpass
    cases h.symm.trans (exec_call_push nnn hsp)
    exact pcTarget_zextNnn s nnn
  | jpV0 nnn =>
    cases h
    exact pcTarget_offset s nnn _
  | ret ign =>
    cases h.symm.trans (exec_ret_pop ign (sp_pos_of_ownFault_ret hpass))
    exact .inr (.inr (.inr (.inr ⟨_, rfl⟩)))
  | seImm | sneImm | seReg | sneReg =>
    cases h
    exact pcTarget_skipIf s _
  | skp x ign =>
    have hk : (s.getV x).toNat ≤ 15 := by simpa [ownFault] using hpass
    cases h.symm.trans (exec_skp_low x ign hk)
    exact pcTarget_skipIf s _
  | sknp x ign =>
    have hk : (s.getV x).toNat ≤ 15 := by simpa [ownFault] using hpass
    cases h.symm.trans (exec_sknp_low x ign hk)
    exact pcTarget_skipIf s _
  | ldVxK x =>
    cases hkey : s.lowestKey with
    | none =>
      cases h.symm.trans (exec_ldVxK_none x hkey)
      exact .inr (.inr (.inl rfl))
    | some k =>
      cases h.symm.trans (exec_ldVxK_some x hkey)
      exact .inl rfl
  | _ => exact .inl (hframe.pc rfl)

/-- A stack entry after an instruction is the old one, or PC, which only CALL pushes. -/
theorem exec_stackAt_cases {i : Instr} {s t : State} (h : exec i s = .next t) (k : Fin 16) :
    t.stackAt k = s.stackAt k ∨ t.stackAt k = s.pc := by
  rcases exec_cases h with ⟨hpass, hframe⟩ | ⟨f, -, rfl⟩
  case inr => exact .inl rfl
  cases i with
  | call nnn =>
    have hsp := sp_lt_of_ownFault_call hpass
    cases h.symm.trans (exec_call_push nnn hsp)
    by_cases hk : s.sp.val = k.val
    · exact .inr (by simp [State.stackAt, hk])
    · exact .inl (by simp [State.stackAt, hk])
  | _ => exact .inl (hframe.stackAt k List.not_mem_nil)

/-- A step that runs an instruction keeps PC and the return addresses in bounds (R105): the instruction was fetched below 0x1000, so the
PC it runs with, and CALL pushes, is at most 0x1000. -/
theorem State.Runs.pcOk {s u : State} {i : Instr} (h : s.Runs i u) (hs : s.PcOk) : u.PcOk := by
  obtain ⟨⟨op, hfetch, -⟩, -, hexec, hframe⟩ := h
  intro hm
  have hm' : s.params.addrMode = .fault := hframe.params ▸ hm
  have hpc : s.pc.toNat ≤ 0xFFE := State.pc_le_of_fetchWord hm' hfetch
  obtain ⟨-, hstack⟩ := hs hm'
  have hskip : s.skip.pc.toNat ≤ 0x1000 := by rw [State.skip_pc]; bv_omega
  refine ⟨?_, fun k => ?_⟩
  · rcases exec_pcTarget hexec with h | h | h | h | ⟨k, h⟩
    · rw [h]; omega
    · rw [h]; bv_omega
    · rw [h]; simp only [State.skip_pc, BitVec.add_sub_cancel]; omega
    · exact h
    · rw [h]; exact (hstack k).trans (by decide)
  · rcases exec_stackAt_cases hexec k with h | h
    · rw [h]; exact hstack k
    · rw [h]; exact hskip

/-- Settles O18: a step leaves the state as it is, latches a fault of R700 over it, or runs an instruction, which keeps each of the three
parts of the invariant. -/
theorem stepKeepsInvariant : Obligations.StepKeepsInvariant := by
  intro s t hs h
  obtain ⟨hmem, hpc, hfault⟩ := hs
  rcases step_cases h with ⟨-, rfl⟩ | ⟨-, op, f, hraises, rfl⟩ | ⟨h0, i, u, hruns, rfl⟩
  · exact ⟨hmem, hpc, hfault⟩
  · exact ⟨hmem, hpc, hraises.faultOk⟩
  · have hclear : u.faultStatus = (0, 0, 0, 0) := hruns.frame.faultStatus.trans (hfault.clear h0)
    have humem : u.MemOk := exec_memOk hruns.execs (s := s.skip) hmem
    exact ⟨humem, hruns.pcOk hpc, State.faultOk_of_clear hclear⟩

end Sys2Proof.Machine

/-! What no instruction, or only a listed one, changes. -/

namespace Sys2Proof.Machine

/-- Settles O20: the frame of every instruction, or the fault of its own check. -/
theorem instructionsChangeOnlyTheirFootprint : Obligations.InstructionsChangeOnlyTheirFootprint :=
  fun _ _ _ h => exec_cases h

/-- Settles O23: a latched fault writes the fault registers only, and every frame holds the keys and the parameters. -/
theorem stepsLeaveKeypadAndParameters : Obligations.StepsLeaveKeypadAndParameters := by
  intro s t h
  rcases step_cases h with ⟨-, rfl⟩ | ⟨-, op, f, -, rfl⟩ | ⟨-, i, u, hruns, rfl⟩
  · exact ⟨fun _ => rfl, rfl⟩
  · exact ⟨fun _ => rfl, rfl⟩
  · exact ⟨hruns.frame.key, hruns.frame.params⟩

/-- An instruction with VF in its footprint is one of R101's list. -/
theorem writesVf_of_mem_regs {i : Instr} {s : State} (h : 0xF#4 ∈ (footprint i s).regs) : writesVf i = true := by
  cases i with
  | ldVxMem x =>
    have hx : 15 ≤ x.toNat := (mem_blockRegs x 0xF#4).1 h
    have : x = 0xF#4 := by bv_omega
    exact beq_iff_eq.2 this
  | add | sub | shr | subn | shl | drw => rfl
  | ldImm | addImm | mov | or | and | xor | rnd | ldVxDt | ldVxK => exact beq_iff_eq.2 (List.mem_singleton.1 h).symm
  | _ => exact absurd h List.not_mem_nil

/-- Settles O24: a fault writes no register, and a frame lets VF change only where VF is in the footprint. -/
theorem onlyListedInstructionsChangeVf : Obligations.OnlyListedInstructionsChangeVf := by
  intro i s t h hvf
  rcases exec_cases h with ⟨-, hframe⟩ | ⟨f, -, rfl⟩
  · exact writesVf_of_mem_regs (Decidable.by_contra fun hmem => hvf (hframe.getV _ hmem))
  · exact absurd rfl hvf

end Sys2Proof.Machine

/-! The host's surfaces and reset (10_state R114, R120, R141). -/

namespace Sys2Proof.Machine

/-- The flat array of R114 is the rows put one after the other. -/
theorem State.display_eq_flatten (s : State) : s.display = s.fb.flatten.toList := by
  simp only [State.display, Vector.flatten, List.flatMap_def, Vector.toList, Array.toList_flatten, Array.toList_map,
    List.map_map]
  rfl

/-- Settles O54: element y*64 + x of the flattened rows is column x of row y. -/
theorem displayIsRowMajor : Obligations.DisplayIsRowMajor := by
  intro s
  rw [State.display_eq_flatten]
  refine ⟨Vector.length_toList, fun x y hx hy => ?_⟩
  have hlt : y * 64 + x < 32 * 64 := by omega
  have hdiv : (y * 64 + x) / 64 = y := by omega
  have hmod : (y * 64 + x) % 64 = x := by omega
  rw [Vector.getElem?_toList, Vector.getElem?_flatten, dif_pos hlt]
  simp [hdiv, hmod, State.pixel, Framebuffer.at, Nat.mod_eq_of_lt hx, Nat.mod_eq_of_lt hy]

/-- Settles O17: no cell is listed, PC is PROG_BASE, every stack entry is 0 and no fault is latched. -/
theorem resetMeetsInvariant : Obligations.ResetMeetsInvariant := by
  refine ⟨rfl, fun _ => ⟨by decide, fun k => ?_⟩, State.faultOk_of_clear rfl⟩
  simp [State.stackAt, State.reset]

/-! After reset memory reads as its reset content (R120). -/

theorem memByte_doReset (s : State) (a : Nat) : s.doReset.memByte a = Memory.background s.params.font a := rfl

/-- Settles O50: each element by its definition in the reset state; memory by `Memory.background`. -/
theorem resetSetsEveryElement : Obligations.ResetSetsEveryElement := by
  intro s
  have hreg : ∀ r, s.doReset.getV r = 0 := fun r => by simp [State.getV, State.doReset, State.reset]
  have hstack : ∀ k, s.doReset.stackAt k = 0 := fun k => by simp [State.stackAt, State.doReset, State.reset]
  have hfont : ∀ a (h : 0x50 ≤ a ∧ a < 0xA0), s.doReset.memByte a = s.params.font[a - 0x50]'(by omega) :=
    fun a h => (memByte_doReset s a).trans (dif_pos h)
  have hzero : ∀ a, ¬ (0x50 ≤ a ∧ a < 0xA0) → s.doReset.memByte a = 0 := fun a h => (memByte_doReset s a).trans (dif_neg h)
  have hpixel : ∀ x y, s.doReset.pixel x y = false := Framebuffer.at_blank
  have hkey : ∀ k, s.doReset.key k = false := fun k => by simp [State.key, State.doReset, State.reset]
  exact ⟨hreg, rfl, rfl, rfl, hstack, rfl, rfl, hfont, hzero, hpixel, hkey, rfl, rfl, rfl, rfl, rfl, rfl, rfl⟩

theorem State.key_setKey (s : State) (k j : Nibble) (p : Bool) : (s.setKey k p).key j = if j = k then p else s.key j := by
  simp only [State.key, State.setKey_keys, Vector.getElem_set, BitVec.toNat_inj, eq_comm]

/-- Settles O55: a key write is a write to one element of the keypad vector. -/
theorem keypadWritesOneKey : Obligations.KeypadWritesOneKey :=
  fun s k j p => ⟨s.key_setKey k j p, rfl⟩

end Sys2Proof.Machine

/-! The address check and the fetch (20_memory R203, R205, R206). -/

namespace Sys2Proof.Machine

/-- Settles O49: the two branches of the check, and the two modes of the second. -/
theorem addressCheckFaultsOrWraps : Obligations.AddressCheckFaultsOrWraps :=
  fun a => ⟨fun m h => check_low m a h, fun h => ⟨check_high a h, check_wrap a⟩⟩

/-- Settles O8: both addresses pass the check, and the word of two bytes has the first as its high byte. -/
theorem fetchIsBigEndian : Obligations.FetchIsBigEndian :=
  fun s h => ⟨_, s.fetchWord_ok h, toNat_wordOfBytes _ _⟩

/-- Settles O9: the fetch reports the first address above 0xFFF, and the step latches that fault over the state. -/
theorem fetchOutOfRangeFaults : Obligations.FetchOutOfRangeFaults :=
  fun s h0 hm hpc => step_fetch_error h0 (s.fetchWord_high hm hpc)

end Sys2Proof.Machine

/-! Which steps change memory, and where (20_memory R208, R217). -/

namespace Sys2Proof.Machine

theorem Frame.memByte {fp : Footprint} {s t : State} (h : Frame fp s t) : ∀ a, a ∉ fp.mem → t.memByte a = s.memByte a := by
  obtain ⟨-, -, -, -, -, -, -, -, hmem, -⟩ := h
  exact hmem

/-- No footprint depends on PC. -/
theorem footprint_skip (i : Instr) (s : State) : footprint i s.skip = footprint i s := by
  cases i <;> rfl

/-- The stores are FX33 and FX55, each to its checked addresses (R208). -/
theorem mem_footprint_mem {i : Instr} {s : State} {a : Nat} (h : a ∈ (footprint i s).mem) :
    ∃ x, (i = .ldBVx x ∧ a ∈ s.blockTouched 3) ∨ (i = .ldMemVx x ∧ a ∈ s.blockTouched (x.toNat + 1)) := by
  cases i with
  | ldBVx x => exact ⟨x, .inl ⟨rfl, h⟩⟩
  | ldMemVx x => exact ⟨x, .inr ⟨rfl, h⟩⟩
  | _ => exact absurd h List.not_mem_nil

/-- A byte that a step changes lies in the footprint of the instruction it decodes; a fault changes none. -/
theorem step_memByte_ne {s t : State} {a : Nat} (h : step s = .next t) (ha : t.memByte a ≠ s.memByte a) :
    ∃ w i, s.fetchWord = .ok w ∧ decode w = .ok i ∧ a ∈ (footprint i s).mem := by
  rcases step_cases h with ⟨-, rfl⟩ | ⟨-, op, f, -, rfl⟩ | ⟨-, i, u, hruns, rfl⟩
  · exact absurd rfl ha
  · exact absurd rfl ha
  · obtain ⟨w, hfetch, hdec⟩ := hruns.fetches
    have hframe : Frame (footprint i s) s.skip u := footprint_skip i s ▸ hruns.frame
    exact ⟨w, i, hfetch, hdec, Decidable.by_contra fun hmem => ha (hframe.memByte a hmem)⟩

/-- Settles O21: a changed byte lies in the footprint of the step's instruction, and only the two stores name bytes there. -/
theorem onlyStoresChangeMemory : Obligations.OnlyStoresChangeMemory := by
  intro s t a h ha
  obtain ⟨w, i, hfetch, hdec, hmem⟩ := step_memByte_ne h ha
  obtain ⟨x, ⟨rfl, htouched⟩ | ⟨rfl, htouched⟩⟩ := mem_footprint_mem hmem
  · exact ⟨w, x, hfetch, .inl ⟨hdec, htouched⟩⟩
  · exact ⟨w, x, hfetch, .inr ⟨hdec, htouched⟩⟩

/-- A step whose instruction spares the font range keeps each of its bytes. -/
theorem step_keeps_font {s t : State} {w : Word} {i : Instr} (hfetch : s.fetchWord = .ok w) (hdec : decode w = .ok i)
    (hspares : sparesFont i s) (h : step s = .next t) {a : Nat} (ha : 0x50 ≤ a ∧ a < 0xA0) : t.memByte a = s.memByte a := by
  by_contra hne
  obtain ⟨w', i', hfetch', hdec', hmem⟩ := step_memByte_ne h hne
  cases hfetch.symm.trans hfetch'
  cases hdec.symm.trans hdec'
  exact hspares a hmem ha

/-- Settles O22, by induction on the number of steps. -/
theorem fontSurvivesRuns : Obligations.FontSurvivesRuns := by
  intro n
  induction n with
  | zero =>
    rintro s t rfl a - -
    rfl
  | succ n ih =>
    rintro s t ⟨w, i, u, -, hfetch, hdec, hspares, hstep, -, hrest⟩ a hlow hhigh
    calc t.memByte a
      _ = u.memByte a := ih u t hrest a hlow hhigh
      _ = s.memByte a := step_keeps_font hfetch hdec hspares hstep ⟨hlow, hhigh⟩

end Sys2Proof.Machine

/-! What a block store leaves in memory, and that a fetch reads it (20_memory R208, R214; 46_index_memory R653). -/

namespace Sys2Proof.Machine

/-- After a store of `bytes` to the checked addresses from I, the address I + k, modulo 4096, holds the k-th of them. -/
theorem State.memByte_storeAll_block (s : State) {n : Nat} (bytes : List Byte) (hlen : bytes.length = n) (hn : n ≤ 4096)
    (hs : s.MemOk) (k : Nat) (hk : k < bytes.length) :
    (s.storeAll (((List.range n).map fun j => (s.i.toNat + j) % 4096).zip bytes)).memByte ((s.i.toNat + k) % 4096) = bytes[k] := by
  have hfst : (((List.range n).map fun j => (s.i.toNat + j) % 4096).zip bytes).map Prod.fst =
      (List.range n).map fun j => (s.i.toNat + j) % 4096 := List.map_fst_zip (by simp [hlen])
  refine s.memByte_storeAll_mem _ ?_ ?_ hs _ _ ?_
  · rw [hfst]
    exact nodup_wrapped _ _ hn
  · rw [hfst]
    intro a ha
    obtain ⟨j, -, rfl⟩ := List.mem_map.1 ha
    exact Nat.mod_lt _ (by decide)
  · exact List.mem_iff_getElem.2 ⟨k, by simp; omega, by simp⟩

/-- FX55 in range stores V0 to Vx at the addresses from I, each modulo 4096 (R653). -/
theorem exec_ldMemVx_inRange (x : Nibble) {s : State} (h : s.InRange (x.toNat + 1)) :
    exec (.ldMemVx x) s = .next (s.storeAll
      (((List.range (x.toNat + 1)).map fun k => (s.i.toNat + k) % 4096).zip ((blockRegs x).map s.getV))) := by
  simp only [exec, execLdMemVx, s.checkBlock_ok _ h]

/-- FX55 in range leaves V[k], for each k up to X, at I + k modulo 4096 (R653). -/
theorem exec_ldMemVx_memByte {x : Nibble} {s t : State} (hs : s.MemOk) (h : s.InRange (x.toNat + 1))
    (ht : exec (.ldMemVx x) s = .next t) (k : Nibble) (hk : k.toNat ≤ x.toNat) :
    t.memByte ((s.i.toNat + k.toNat) % 4096) = s.getV k := by
  have hx : x.toNat < 16 := x.isLt
  have hlen : ((blockRegs x).map s.getV).length = x.toNat + 1 := by simp
  cases ht.symm.trans (exec_ldMemVx_inRange x h)
  rw [s.memByte_storeAll_block _ hlen (by omega) hs k.toNat (by omega), List.getElem_map, getElem_blockRegs]

/-- Memory reads alike in states that agree in its cells and in the parameters. -/
theorem State.memByte_congr {s t : State} (hmem : s.mem = t.mem) (hparams : s.params = t.params) (a : Nat) :
    s.memByte a = t.memByte a := by
  simp only [State.memByte, hmem, hparams]

theorem exec_params {i : Instr} {s t : State} (h : exec i s = .next t) : t.params = s.params := by
  rcases exec_cases h with ⟨-, hframe⟩ | ⟨f, -, rfl⟩
  · exact hframe.params
  · rfl

/-- Settles O48: the two bytes the fetch reads at I are those that FX55 left there, V[0] and V[1]. -/
theorem fetchSeesStoredBytes : Obligations.FetchSeesStoredBytes := by
  intro x s t u hs hrange hx ht hmem hparams hpc
  have hfetchable : u.params.addrMode = .wrap12 ∨ u.pc.toNat ≤ 0xFFE := by
    rw [hparams, exec_params ht, hpc]
    rcases hrange with h | h | h
    · exact .inl h
    · omega
    · exact .inr (by omega)
  have hbyte : ∀ k : Nibble, k.toNat ≤ x.toNat → u.memByte ((u.pc.toNat + k.toNat) % 4096) = s.getV k := by
    intro k hk
    rw [State.memByte_congr hmem hparams, hpc, exec_ldMemVx_memByte hs hrange ht k hk]
  have hhigh : u.memByte (u.pc.toNat % 4096) = s.getV 0#4 := hbyte 0#4 (Nat.zero_le _)
  have hlow : u.memByte ((u.pc.toNat + 1) % 4096) = s.getV 1#4 := hbyte 1#4 hx
  exact ⟨_, u.fetchWord_ok hfetchable, by rw [toNat_wordOfBytes, hhigh, hlow]⟩

end Sys2Proof.Machine

/-! The decoder and the encoder agree (30_encoding R304 to R311). -/

namespace Sys2Proof

theorem decode_encode (i : Instr) : decode (encode i) = .ok i := by
  cases i with
  | cls | ret => simp [encode, decode, decode0]
  | mov | or | and | xor | add | sub | shr | subn | shl => simp [encode, decode, decode8]
  | skp | sknp => simp [encode, decode, decodeE]
  | ldVxDt | ldVxK | ldDtVx | ldStVx | addIVx | ldFVx | ldBVx | ldMemVx | ldVxMem => simp [encode, decode, decodeF]
  | jp | call | seImm | sneImm | seReg | ldImm | addImm | sneReg | ldI | jpV0 | rnd | drw => simp [encode, decode]

theorem decodeBytes_encodeBytes (i : Instr) (rest : List Byte) : decodeBytes (encodeBytes i ++ rest) = .ok (i, rest) := by
  simp [encodeBytes, decodeBytes, decode_encode]

/-- Settles O2: each format's fields read back from its word, and a word from its two bytes. -/
theorem decodeInvertsEncode : Obligations.DecodeInvertsEncode :=
  fun i rest => ⟨decode_encode i, decodeBytes_encodeBytes i rest⟩

/-! A word whose selectors are known is the word its format builds from them and its other fields. -/

section

variable {w : Word} {p n : Nibble} {nn : Byte}

theorem wordXYN_of_selectors (hP : opP w = p) (hN : opN w = n) : wordXYN p (opX w) (opY w) n = w := by
  rw [← hP, ← hN, wordXYN_fields]

theorem wordS_of_selectors (hP : opP w = p) (hN : opN w = n) : wordS p (opMid w) n = w := by
  rw [← hP, ← hN, wordS_fields]

theorem wordXNN_of_selectors (hP : opP w = p) (hNN : opNN w = nn) : wordXNN p (opX w) nn = w := by
  rw [← hP, ← hNN, wordXNN_fields]

theorem wordNNN_of_selector (hP : opP w = p) : wordNNN p (opNNN w) = w := by
  rw [← hP, wordNNN_fields]

end

/-- The decoder's answer on `w`: an instruction whose word is `w`, or a rejection; a rejection exactly where `unmapped` holds. -/
inductive Answers (w : Word) (unmapped : Prop) : Except DecodeError Instr → Prop where
  | ok {i : Instr} (hword : encode i = w) (hmapped : ¬ unmapped) : Answers w unmapped (.ok i)
  | error {e : DecodeError} (hunmapped : unmapped) : Answers w unmapped (.error e)

section

variable {w : Word}

theorem Answers.encode_eq {u : Prop} {i : Instr} (h : Answers w u (.ok i)) : encode i = w := by
  cases h; assumption

theorem Answers.error_iff {u : Prop} {r : Except DecodeError Instr} (h : Answers w u r) : (∃ e, r = .error e) ↔ u := by
  cases h with
  | ok _ hmapped => simp [hmapped]
  | error hunmapped => simp [hunmapped]

theorem Answers.congr {u v : Prop} {r : Except DecodeError Instr} (h : Answers w u r) (huv : u ↔ v) : Answers w v r :=
  propext huv ▸ h

theorem decode0_answers (hP : opP w = 0x0#4) : Answers w (opN w ≠ 0x0#4 ∧ opN w ≠ 0xE#4) (decode0 w) := by
  unfold decode0
  split
  case h_1 hN | h_2 hN => exact .ok (wordS_of_selectors hP hN) (by simp [hN])
  case h_3 h0 hE => exact .error ⟨h0, hE⟩

theorem decode8_answers (hP : opP w = 0x8#4) : Answers w (0x8#4 ≤ opN w ∧ opN w ≠ 0xE#4) (decode8 w) := by
  unfold decode8
  split
  case h_10 =>
    simp only [imp_false] at *
    exact .error (by bv_omega)
  all_goals next hN => exact .ok (wordXYN_of_selectors hP hN) (by simp [hN])

theorem decodeE_answers (hP : opP w = 0xE#4) : Answers w (opN w ≠ 0x1#4 ∧ opN w ≠ 0xE#4) (decodeE w) := by
  unfold decodeE
  split
  case h_1 hN | h_2 hN => exact .ok (wordXYN_of_selectors hP hN) (by simp [hN])
  case h_3 hE h1 => exact .error ⟨h1, hE⟩

theorem decodeF_answers (hP : opP w = 0xF#4) :
    Answers w (opNN w ∉ [0x07#8, 0x0A#8, 0x15#8, 0x18#8, 0x1E#8, 0x29#8, 0x33#8, 0x55#8, 0x65#8]) (decodeF w) := by
  unfold decodeF
  split
  case h_10 =>
    simp only [imp_false] at *
    exact .error (by simp [*])
  all_goals next hNN => exact .ok (wordXNN_of_selectors hP hNN) (by simp [hNN])

/-- The words that R311's table lists, by their fields. -/
def Unmapped (w : Word) : Prop :=
  (opP w = 0x0#4 ∧ opN w ≠ 0x0#4 ∧ opN w ≠ 0xE#4) ∨ (opP w = 0x8#4 ∧ 0x8#4 ≤ opN w ∧ opN w ≠ 0xE#4) ∨
  (opP w = 0xE#4 ∧ opN w ≠ 0x1#4 ∧ opN w ≠ 0xE#4) ∨
  (opP w = 0xF#4 ∧ opNN w ∉ [0x07#8, 0x0A#8, 0x15#8, 0x18#8, 0x1E#8, 0x29#8, 0x33#8, 0x55#8, 0x65#8])

theorem decode_answers (w : Word) : Answers w (Unmapped w) (decode w) := by
  unfold decode
  split
  case h_1 hP => exact (decode0_answers hP).congr (by simp [Unmapped, hP])
  case h_9 hP => exact (decode8_answers hP).congr (by simp [Unmapped, hP])
  case h_15 hP => exact (decodeE_answers hP).congr (by simp [Unmapped, hP])
  case h_16 h0 h1 h2 h3 h4 h5 h6 h7 h8 h9 hA hB hC hD hE =>
    have hP := nibble_eq_F _ h0 h1 h2 h3 h4 h5 h6 h7 h8 h9 hA hB hC hD hE
    exact (decodeF_answers hP).congr (by simp [Unmapped, hP])
  case h_2 hP | h_3 hP | h_11 hP | h_12 hP => exact .ok (wordNNN_of_selector hP) (by simp [Unmapped, hP])
  case h_4 hP | h_5 hP | h_7 hP | h_8 hP | h_13 hP => exact .ok (wordXNN_of_selectors hP rfl) (by simp [Unmapped, hP])
  case h_6 hP | h_10 hP | h_14 hP => exact .ok (wordXYN_of_selectors hP rfl) (by simp [Unmapped, hP])

end

/-- Settles O3: whichever arm of the decoder answers, the fields it kept and its selectors build the word. -/
theorem encodeInvertsDecode : Obligations.EncodeInvertsDecode :=
  fun w _ h => (h ▸ decode_answers w).encode_eq

/-! The selectors as numbers (R301). -/

section

variable {w : Word}

theorem opP_eq_iff {p : Nibble} : opP w = p ↔ w.toNat / 4096 = p.toNat := by
  rw [← toNat_opP, BitVec.toNat_inj]

theorem opN_eq_iff {n : Nibble} : opN w = n ↔ w.toNat % 16 = n.toNat := by
  rw [← toNat_opN, BitVec.toNat_inj]

theorem opNN_eq_iff {nn : Byte} : opNN w = nn ↔ w.toNat % 256 = nn.toNat := by
  rw [← toNat_opNN, BitVec.toNat_inj]

end

/-- Settles O4: the decoder rejects the words whose fields R311's table lists, and the fields are those numbers. -/
theorem unmappedWordsExactly : Obligations.UnmappedWordsExactly := by
  intro w
  rw [(decode_answers w).error_iff]
  simp only [Unmapped, ne_eq, BitVec.le_def, toNat_opN, opP_eq_iff, opN_eq_iff, opNN_eq_iff, List.mem_cons,
    List.not_mem_nil]
  rfl

/-! The arms of the decoder that leave bits unexamined (R304, R306, R308). -/

section

variable {w : Word}

theorem decode_cls (hP : opP w = 0x0#4) (hN : opN w = 0x0#4) : decode w = .ok (.cls (opMid w)) := by
  simp [decode, hP, decode0, hN]

theorem decode_ret (hP : opP w = 0x0#4) (hN : opN w = 0xE#4) : decode w = .ok (.ret (opMid w)) := by
  simp [decode, hP, decode0, hN]

theorem decode_seReg (hP : opP w = 0x5#4) : decode w = .ok (.seReg (opX w) (opY w) (opN w)) := by
  simp [decode, hP]

theorem decode_sneReg (hP : opP w = 0x9#4) : decode w = .ok (.sneReg (opX w) (opY w) (opN w)) := by
  simp [decode, hP]

theorem decode_skp (hP : opP w = 0xE#4) (hN : opN w = 0xE#4) : decode w = .ok (.skp (opX w) (opY w)) := by
  simp [decode, hP, decodeE, hN]

theorem decode_sknp (hP : opP w = 0xE#4) (hN : opN w = 0x1#4) : decode w = .ok (.sknp (opX w) (opY w)) := by
  simp [decode, hP, decodeE, hN]

end

/-- Settles O5: the selectors fix the decoder's arm, and X and Y are read off the word. -/
theorem unexaminedBitsDecodeAlike : Obligations.UnexaminedBitsDecodeAlike :=
  fun w =>
    ⟨fun hP hN => ⟨_, decode_cls (opP_eq_iff.2 hP) (opN_eq_iff.2 hN)⟩,
      fun hP hN => ⟨_, decode_ret (opP_eq_iff.2 hP) (opN_eq_iff.2 hN)⟩,
      fun hP => ⟨_, _, _, decode_seReg (opP_eq_iff.2 hP), toNat_opX w, toNat_opY w⟩,
      fun hP => ⟨_, _, _, decode_sneReg (opP_eq_iff.2 hP), toNat_opX w, toNat_opY w⟩,
      fun hP hN => ⟨_, _, decode_skp (opP_eq_iff.2 hP) (opN_eq_iff.2 hN), toNat_opX w⟩,
      fun hP hN => ⟨_, _, decode_sknp (opP_eq_iff.2 hP) (opN_eq_iff.2 hN), toNat_opX w⟩⟩

/-- Settles O1: each of the words runs through the decoder's tables. -/
theorem knownWordsDecode : Obligations.KnownWordsDecode := by
  unfold Obligations.KnownWordsDecode
  decide

end Sys2Proof

/-! What a step runs, and that it always answers (30_encoding R311, R320 to R323, R830). -/

namespace Sys2Proof.Machine

theorem exec_completes (i : Instr) (s : State) : ∃ t, exec i s = .next t := by
  rcases endsAs i s with ⟨-, t, ht, -⟩ | ⟨f, -, hf⟩
  · exact ⟨t, ht⟩
  · exact ⟨_, hf⟩

theorem step_completes (s : State) : ∃ t, step s = .next t := by
  by_cases h0 : s.fault = 0
  case neg => exact ⟨s, step_latched h0⟩
  cases hfetch : s.fetchWord with
  | error f => exact ⟨_, step_fetch_error h0 hfetch⟩
  | ok op =>
    cases hdec : decode op with
    | error e => exact ⟨_, step_decode_error h0 hfetch hdec⟩
    | ok i =>
      obtain ⟨t, ht⟩ := exec_completes i s.skip
      exact ⟨t.finish, by rw [step_decode_ok h0 hfetch hdec, ht, finishOut]⟩

/-- Settles O14: an instruction ends in its frame or in a taken fault, and each branch of a step in a next state. -/
theorem everyStepCompletes : Obligations.EveryStepCompletes := ⟨step_completes, exec_completes⟩

/-- Settles O7: the step's branch for a decoded instruction, whose end is `State.finish`. -/
theorem stepRunsDecodedInstruction : Obligations.StepRunsDecodedInstruction := by
  intro s w i h0 hfetch hdec
  have hstep := step_decode_ok h0 hfetch hdec
  refine ⟨rfl, hstep, fun t ht => ?_⟩
  rw [hstep, ht, finishOut, State.finish]

/-- Settles O10: the step's branch for a rejected word, which latches the fault over the state. -/
theorem unmappedWordFaults : Obligations.UnmappedWordFaults :=
  fun _ _ _ h0 hfetch hdec => step_decode_error h0 hfetch hdec

end Sys2Proof.Machine

/-! The bits without a meaning show in FAULT_OP only (30_encoding R310, 60_exceptions R710). -/

namespace Sys2Proof.Machine

/-- Both outcomes are next states, alike in everything but FAULT_OP. -/
def AlikeButFaultOp (o o' : Out) : Prop := ∃ t u, o = .next t ∧ o' = .next u ∧ u = { t with faultOp := u.faultOp }

theorem alikeButFaultOp_next (t : State) : AlikeButFaultOp (.next t) (.next t) := ⟨t, t, rfl, rfl, rfl⟩

theorem alikeButFaultOp_raise (s : State) (op op' : Word) (f : Fault) : AlikeButFaultOp (s.raise op f) (s.raise op' f) :=
  ⟨_, _, rfl, rfl, rfl⟩

theorem exec_ret_alike (m n : Byte) (s : State) : AlikeButFaultOp (exec (.ret m) s) (exec (.ret n) s) := by
  by_cases h : s.sp.val = 0
  · rw [exec_ret_empty m h, exec_ret_empty n h]
    exact alikeButFaultOp_raise ..
  · rw [exec_ret_pop m (by omega), exec_ret_pop n (by omega)]
    exact alikeButFaultOp_next _

/-- Two key skips that read the same key index and agree on the skip (R600). -/
theorem alikeButFaultOp_keySkip {i j : Instr} {s t : State} {v : Byte}
    (hi : v.toNat > 15 → exec i s = s.raise (encode i) (.keyIndexOutOfRange v))
    (hj : v.toNat > 15 → exec j s = s.raise (encode j) (.keyIndexOutOfRange v))
    (hi' : v.toNat ≤ 15 → exec i s = .next t) (hj' : v.toNat ≤ 15 → exec j s = .next t) :
    AlikeButFaultOp (exec i s) (exec j s) := by
  by_cases h : v.toNat > 15
  · rw [hi h, hj h]
    exact alikeButFaultOp_raise ..
  · rw [hi' (by omega), hj' (by omega)]
    exact alikeButFaultOp_next t

/-- Settles O6: five meanings do not take these bits, and the other three only put them in the word of the fault they raise. -/
theorem ignoredBitsDoNotMatter : Obligations.IgnoredBitsDoNotMatter :=
  fun x _ a b m n s =>
    ⟨rfl, rfl, rfl, rfl, rfl, exec_ret_alike m n s,
      alikeButFaultOp_keySkip (exec_skp_high x a) (exec_skp_high x b) (exec_skp_low x a) (exec_skp_low x b),
      alikeButFaultOp_keySkip (exec_sknp_high x a) (exec_sknp_high x b) (exec_sknp_low x a) (exec_sknp_low x b)⟩

end Sys2Proof.Machine

/-! Clearing the screen and drawing a sprite over it (41_display R401, R402, R404). -/

namespace Sys2Proof.Machine

/-- Settles O25: the blank framebuffer replaces the old one, and nothing else is written. -/
theorem clearScreenTurnsAllOff : Obligations.ClearScreenTurnsAllOff :=
  fun _ s => ⟨s.setFb Framebuffer.blank, rfl, fun x y _ _ => Framebuffer.at_blank x y, frame_setFb s _⟩

/-! Both the screen and the sprite over it wrap, so a pixel found anywhere is one of the 2048. -/

theorem State.pixel_mod (s : State) (a b : Nat) : s.pixel (a % 64) (b % 32) = s.pixel a b := by
  simp [State.pixel, Framebuffer.at]

theorem State.underSprite_mod (s : State) (n x0 y0 a b : Nat) :
    s.underSprite n x0 y0 (a % 64) (b % 32) = s.underSprite n x0 y0 a b := by
  have hcol : (a % 64 + 64 - x0 % 64) % 64 = (a + 64 - x0 % 64) % 64 := by omega
  have hrow : (b % 32 + 32 - y0 % 32) % 32 = (b + 32 - y0 % 32) % 32 := by omega
  simp only [State.underSprite, hcol, hrow]

/-- The pixels that DXYN toggles: those under a set bit of the sprite drawn at the position in V[X] and V[Y] (R402). -/
def State.drwCover (s : State) (x y n : Nibble) (a b : Nat) : Bool :=
  s.underSprite n.toNat ((s.getV x).toNat % 64) ((s.getV y).toNat % 32) a b

/-- DXYN collides: it turns some lit pixel of the screen off (R402). -/
def State.Collides (s : State) (x y n : Nibble) : Prop :=
  ∃ a b, a < 64 ∧ b < 32 ∧ s.pixel a b = true ∧ s.drwCover x y n a b = true

/-- The framebuffer and the collision that DXYN's loop computes from the sprite's bytes at I, each address modulo 4096. -/
def State.drawn (s : State) (x y n : Nibble) : Framebuffer × Bool :=
  drawRows ((s.getV x).toNat % 64) ((s.getV y).toNat % 32)
    ((List.range n.toNat).map fun k => s.memByte ((s.i.toNat + k) % 4096)) s.fb false

theorem State.drawn_spec (s : State) (x y n : Nibble) :
    (∀ a b, (s.drawn x y n).1.at a b = (s.pixel a b ^^ s.drwCover x y n a b)) ∧
    ((s.drawn x y n).2 = true ↔ s.Collides x y n) := by
  have hn : n.toNat < 16 := n.isLt
  obtain ⟨hpixel, hhit⟩ := drawRows_spec ((s.getV x).toNat % 64) ((s.getV y).toNat % 32)
    ((List.range n.toNat).map fun k => s.memByte ((s.i.toNat + k) % 4096)) (by simp; omega) s.fb false
  simp only [s.rowsCover_underSprite n.toNat _ _ (by omega)] at hpixel hhit
  refine ⟨hpixel, hhit.trans ⟨?_, ?_⟩⟩
  · rintro (h | ⟨a, b, hcover, hlit⟩)
    · cases h
    · exact ⟨a % 64, b % 32, Nat.mod_lt _ (by decide), Nat.mod_lt _ (by decide), (s.pixel_mod a b).trans hlit,
        (s.underSprite_mod _ _ _ a b).trans hcover⟩
  · rintro ⟨a, b, -, -, hlit, hcover⟩
    exact .inr ⟨a, b, hcover, hlit⟩

/-! DRW by its two cases (R402, R713). -/

theorem exec_drw_inRange (x y n : Nibble) {s : State} (h : s.InRange n.toNat) :
    exec (.drw x y n) s =
      .next (((s.setV vf 0).setFb (s.drawn x y n).1).setV vf (flagByte (s.drawn x y n).2)) := by
  simp only [exec, execDrw, s.checkBlock_ok _ h, List.map_map]
  rfl

theorem exec_drw_outOfRange (x y n : Nibble) {s : State} (h : ¬ s.InRange n.toNat) :
    exec (.drw x y n) s = s.raise (encode (.drw x y n)) (.addressOutOfRange (max s.i.toNat 0x1000)) := by
  rcases s.checkBlock_cases n.toNat with ⟨hr, -⟩ | ⟨-, -, -, hc⟩
  · exact absurd hr h
  · simp only [exec, execDrw, hc]

/-- `t` is `s` after DXYN as far as the screen and VF go: each pixel under the sprite toggled, and the collision in VF (R402). -/
structure State.DrawsTo (s : State) (x y n : Nibble) (t : State) : Prop where
  pixel : ∀ a b, t.pixel a b = (s.pixel a b ^^ s.drwCover x y n a b)
  vf_hit : s.Collides x y n → t.getV 0xF#4 = 1
  vf_clear : ¬ s.Collides x y n → t.getV 0xF#4 = 0

theorem exec_drw_drawsTo {x y n : Nibble} {s t : State} (hr : s.InRange n.toNat) (h : exec (.drw x y n) s = .next t) :
    s.DrawsTo x y n t := by
  obtain ⟨hpixel, hhit⟩ := s.drawn_spec x y n
  cases h.symm.trans (exec_drw_inRange x y n hr)
  have hvf : (((s.setV vf 0).setFb (s.drawn x y n).1).setV vf (flagByte (s.drawn x y n).2)).getV 0xF#4 =
      flagByte (s.drawn x y n).2 := State.getV_setV_same _ vf _
  refine ⟨hpixel, fun hc => ?_, fun hc => ?_⟩
  · rw [hvf, hhit.2 hc, flagByte, if_pos rfl]
  · rw [hvf, flagByte, if_neg (mt hhit.1 hc)]

/-- Settles O26: in range the loop's closed form, out of range the address check's fault, raised before any write. -/
theorem drawTogglesUnderTheSprite : Obligations.DrawTogglesUnderTheSprite := by
  intro x y n s
  refine ⟨fun hr => ?_, fun hr => exec_drw_outOfRange x y n hr⟩
  have hexec := exec_drw_inRange x y n hr
  have hdraw := exec_drw_drawsTo hr hexec
  refine ⟨_, hexec, fun a b _ _ => hdraw.pixel a b, hdraw.vf_hit, fun hclear => hdraw.vf_clear ?_,
    frame_setVf_setFb_setVf s _ _ _⟩
  rintro ⟨a, b, ha, hb, hlit, hcover⟩
  exact Bool.false_ne_true ((hclear a b ha hb hlit).symm.trans hcover)

/-! DRW as a step (R320), and twice in a row (R404). -/

theorem Frame.i {fp : Footprint} {s t : State} (h : Frame fp s t) : fp.i = false → t.i = s.i := by
  obtain ⟨-, -, hi, -⟩ := h
  exact hi

/-- A step that takes no fault runs the instruction whose word it fetches, to its end and the tick. -/
theorem step_runs {i : Instr} {s t : State} (hfetch : s.fetchWord = .ok (encode i)) (h : step s = .next t) (ht : t.fault = 0) :
    ∃ u, s.Runs i u ∧ t = u.timerTick.nextInputs := by
  rcases step_cases h with ⟨h0, rfl⟩ | ⟨-, op, f, -, rfl⟩ | ⟨-, j, u, hruns, rfl⟩
  · exact absurd ht h0
  · exact absurd ht (State.latch_fault_ne _ _ _ _)
  · obtain ⟨op, hop, hdec⟩ := hruns.fetches
    cases hfetch.symm.trans hop
    cases (decode_encode i).symm.trans hdec
    exact ⟨u, hruns, rfl⟩

theorem State.inRange_of_blockFault {s : State} {n : Nat} (h : s.blockFault n = none) : s.InRange n := by
  rcases s.checkBlock_cases n with ⟨hr, -⟩ | ⟨-, -, hf, -⟩
  · exact hr
  · cases h.symm.trans hf

section

variable {x y n : Nibble} {s t : State}

theorem step_drw_drawsTo (hfetch : s.fetchWord = .ok (encode (.drw x y n))) (h : step s = .next t) (ht : t.fault = 0) :
    s.DrawsTo x y n t := by
  obtain ⟨u, hruns, rfl⟩ := step_runs hfetch h ht
  obtain ⟨hpixel, hhit, hclear⟩ := exec_drw_drawsTo (State.inRange_of_blockFault hruns.passes) hruns.execs
  exact ⟨hpixel, hhit, hclear⟩

/-- With X and Y not F a draw leaves the position and the sprite's bytes, so the same word covers the same pixels again. -/
theorem step_drw_drwCover (hx : x ≠ 0xF#4) (hy : y ≠ 0xF#4) (hfetch : s.fetchWord = .ok (encode (.drw x y n)))
    (h : step s = .next t) (ht : t.fault = 0) (a b : Nat) : t.drwCover x y n a b = s.drwCover x y n a b := by
  obtain ⟨u, hruns, rfl⟩ := step_runs hfetch h ht
  have hframe := hruns.frame
  have hvx : u.getV x = s.getV x := hframe.getV x (mt List.mem_singleton.1 hx)
  have hvy : u.getV y = s.getV y := hframe.getV y (mt List.mem_singleton.1 hy)
  have hi : u.i = s.i := hframe.i rfl
  have hmem : ∀ k, u.memByte k = s.memByte k := fun k => hframe.memByte k List.not_mem_nil
  change u.drwCover x y n a b = s.drwCover x y n a b
  simp only [State.drwCover, State.underSprite, hvx, hvy, hi, hmem]

end

theorem State.DrawsTo.vf_eq_one_iff {s t : State} {x y n : Nibble} (h : s.DrawsTo x y n t) :
    t.getV 0xF#4 = 1 ↔ s.Collides x y n := by
  refine ⟨fun hvf => ?_, h.vf_hit⟩
  by_contra hc
  exact absurd (hvf.symm.trans (h.vf_clear hc)) (by decide)

/-- A draw over the same pixels collides exactly where the first one turned a pixel on. -/
theorem State.DrawsTo.collides_again_iff {s t : State} {x y n : Nibble} (h : s.DrawsTo x y n t)
    (hcover : ∀ a b, t.drwCover x y n a b = s.drwCover x y n a b) :
    t.Collides x y n ↔ ∃ a b, a < 64 ∧ b < 32 ∧ s.pixel a b = false ∧ t.pixel a b = true := by
  have hpixel : ∀ a b, (t.pixel a b = true ∧ t.drwCover x y n a b = true) ↔ (s.pixel a b = false ∧ t.pixel a b = true) := by
    intro a b
    rw [hcover, h.pixel]
    cases s.pixel a b <;> simp
  simp only [State.Collides, hpixel]

/-- Settles O27: the second draw toggles the pixels of the first, so each is toggled twice or not at all. -/
theorem drawTwiceRestoresTheScreen : Obligations.DrawTwiceRestoresTheScreen := by
  intro x y n s t u hx hy _ hfetch hstep ht hfetch' hstep' hu
  have hfirst : s.DrawsTo x y n t := step_drw_drawsTo hfetch hstep ht
  have hsecond : t.DrawsTo x y n u := step_drw_drawsTo hfetch' hstep' hu
  have hcover := step_drw_drwCover hx hy hfetch hstep ht
  refine ⟨fun a b _ _ => ?_, hsecond.vf_eq_one_iff.trans (hfirst.collides_again_iff hcover), ?_⟩
  · calc u.pixel a b
      _ = (t.pixel a b ^^ t.drwCover x y n a b) := hsecond.pixel a b
      _ = (s.pixel a b ^^ s.drwCover x y n a b ^^ s.drwCover x y n a b) := by rw [hcover, hfirst.pixel]
      _ = s.pixel a b := by simp
  · exact (Classical.em _).imp hsecond.vf_hit hsecond.vf_clear

end Sys2Proof.Machine

/-! Control transfer: jumps, skips, the call stack (42_control_flow R451 to R458). -/

namespace Sys2Proof.Machine

/-! How frames combine. -/

section

variable {fp : Footprint} {s t u : State}

theorem Frame.trans (h : Frame fp s t) (h' : Frame fp t u) : Frame fp s u := by
  obtain ⟨hv, hpc, hi, hsp, hstack, hdt, hst, hfb, hmem, hkey, hfault, hfpc, hfop, hinfo, hparams, hrnd, hdraws⟩ := h
  obtain ⟨hv', hpc', hi', hsp', hstack', hdt', hst', hfb', hmem', hkey', hfault', hfpc', hfop', hinfo', hparams', hrnd',
    hdraws'⟩ := h'
  exact ⟨fun r hr => (hv' r hr).trans (hv r hr), fun e => (hpc' e).trans (hpc e), fun e => (hi' e).trans (hi e),
    fun e => (hsp' e).trans (hsp e), fun k hk => (hstack' k hk).trans (hstack k hk), fun e => (hdt' e).trans (hdt e),
    fun e => (hst' e).trans (hst e), fun e x y => (hfb' e x y).trans (hfb e x y), fun a ha => (hmem' a ha).trans (hmem a ha),
    fun k => (hkey' k).trans (hkey k), hfault'.trans hfault, hfpc'.trans hfpc, hfop'.trans hfop, hinfo'.trans hinfo,
    hparams'.trans hparams, hrnd'.trans hrnd, hdraws'.trans hdraws⟩

/-- A frame with more stack entries in the footprint says less. -/
theorem Frame.mono_stack (h : Frame fp s t) (ks : List (Fin 16)) (hsub : fp.stack ⊆ ks) :
    Frame { fp with stack := ks } s t := by
  obtain ⟨hv, hpc, hi, hsp, hstack, hrest⟩ := h
  exact ⟨hv, hpc, hi, hsp, fun k hk => hstack k fun hm => hk (hsub hm), hrest⟩

/-- Where PC and SP end as they were, the footprint need not allow them. -/
theorem Frame.restore_pc_sp (h : Frame fp s t) (hpc : t.pc = s.pc) (hsp : t.sp = s.sp) :
    Frame { fp with pc := false, sp := false } s t := by
  obtain ⟨hv, -, hi, -, hrest⟩ := h
  exact ⟨hv, fun _ => hpc, hi, fun _ => hsp, hrest⟩

end

theorem State.pushSlot_eq {s : State} {k : Fin 16} (h : s.sp.val = k.val) : s.pushSlot = [k] := by
  simp [State.pushSlot, h]

/-- Settles O29: with a free entry the push and the jump, with none the fault of the push. -/
theorem callPushesReturnAddress : Obligations.CallPushesReturnAddress := by
  intro nnn s
  refine ⟨fun k hk => ?_, exec_call_full nnn⟩
  have hsp : s.sp.val < 16 := hk ▸ k.isLt
  have hframe := frame_call s hsp s.pc (zextNnn nnn) ⟨s.sp.val + 1, by omega⟩
  rw [State.pushSlot_eq hk] at hframe
  exact ⟨_, exec_call_push nnn hsp, by simp [State.stackAt, hk], rfl, toNat_zextNnn nnn, hframe⟩

/-- Settles O30: with an entry on the stack the pop and the jump there, with none the fault of the pop. -/
theorem returnPopsThePc : Obligations.ReturnPopsThePc := by
  intro ign s
  refine ⟨fun k hk => ?_, exec_ret_empty ign⟩
  exact ⟨_, exec_ret_pop ign (by omega), by simp [hk], by simp [hk], frame_ret s _ _⟩

/-- Settles O31: the entry that RET pops is the one that CALL pushed, and the two frames combine. -/
theorem returnUndoesCall : Obligations.ReturnUndoesCall := by
  intro nnn ign s t k hk hcall
  obtain ⟨hpush, -⟩ := callPushesReturnAddress nnn s
  obtain ⟨t', hcall', hentry, hraised, -, hframe⟩ := hpush k hk
  cases hcall.symm.trans hcall'
  obtain ⟨hpop, -⟩ := returnPopsThePc ign t
  obtain ⟨u, hret, hlowered, hpc', hframe'⟩ := hpop k (by rw [hraised, hk])
  have hpc : u.pc = s.pc := hpc'.trans hentry
  have hsp : u.sp = s.sp := Fin.ext (hlowered.trans hk.symm)
  have hboth := hframe.trans (hframe'.mono_stack [k] (List.nil_subset _))
  exact ⟨u, hret, hpc, hsp, hboth.restore_pc_sp hpc hsp⟩

/-- NNN + V0 is at most 0x10FE, so the sum fits PC (R458). -/
theorem toNat_zextNnn_add (nnn : Addr12) (v : Byte) :
    (BitVec.ofNat 16 ((zextNnn nnn).toNat + v.toNat)).toNat = nnn.toNat + v.toNat := by
  have hnnn : nnn.toNat < 4096 := nnn.isLt
  have hv : v.toNat < 256 := v.isLt
  rw [toNat_zextNnn, BitVec.toNat_ofNat]
  omega

/-- Settles O28: both jumps are one write of PC, and neither target exceeds 16 bits. -/
theorem jumpsSetPc : Obligations.JumpsSetPc :=
  fun nnn s => ⟨⟨_, rfl, toNat_zextNnn nnn, frame_setPc s _⟩, ⟨_, rfl, toNat_zextNnn_add nnn _, frame_setPc s _⟩⟩

/-- An instruction that skips on a test of `p` adds 2 to PC exactly when `p` holds (R450, R459). -/
theorem exec_skipIf {i : Instr} {s : State} {c : Bool} {p : Prop} [Decidable p] (hexec : exec i s = .next (s.skipIf c))
    (hc : c = true ↔ p) :
    ∃ t, exec i s = .next t ∧ t.pc = (if p then s.pc + 2 else s.pc) ∧ Frame { pc := true } s t :=
  ⟨_, hexec, by simp only [State.pc_skipIf, hc], frame_skipIf s c⟩

/-- Settles O32: the four tests are the Boolean forms of the four conditions. -/
theorem valueSkipsCompare : Obligations.ValueSkipsCompare :=
  fun _ _ _ _ _ =>
    ⟨exec_skipIf rfl beq_iff_eq, exec_skipIf rfl bne_iff_ne, exec_skipIf rfl beq_iff_eq, exec_skipIf rfl bne_iff_ne⟩

end Sys2Proof.Machine

/-! Immediate instructions: load, add without a flag, load index, random AND (43_immediate R500 to R503). -/

namespace Sys2Proof.Machine

/-- An instruction whose one write is `V[X] <- b` leaves `b` there and nothing else changed, X = F included (R500, R503). -/
theorem exec_setV {i : Instr} {s : State} {x : Nibble} {b : Byte} (hexec : exec i s = .next (s.setV x b)) :
    ∃ t, exec i s = .next t ∧ t.getV x = b ∧ Frame { regs := [x] } s t :=
  ⟨_, hexec, s.getV_setV_same x b, frame_setV s x b⟩

theorem exec_addImm_toNat (x : Nibble) (nn : Byte) (s : State) :
    ∃ t, exec (.addImm x nn) s = .next t ∧ (t.getV x).toNat = ((s.getV x).toNat + nn.toNat) % 256 ∧
      Frame { regs := [x] } s t := by
  obtain ⟨t, hexec, hsum, hframe⟩ := exec_setV (s := s) (i := .addImm x nn) rfl
  exact ⟨t, hexec, by rw [hsum, toNat_sumOf], hframe⟩

/-- Settles O33: LD Vx and ADD Vx are one write of V[X], LD I is one write of I. -/
theorem immediatesLoadAndAdd : Obligations.ImmediatesLoadAndAdd :=
  fun x nn nnn s => ⟨exec_setV rfl, exec_addImm_toNat x nn s, ⟨_, rfl, toNat_zextNnn nnn, frame_setI s _⟩⟩

theorem exec_rnd (x : Nibble) (nn : Byte) (s : State) :
    ∃ t, exec (.rnd x nn) s = .next t ∧ t.getV x = s.rndByte &&& nn ∧ Frame { regs := [x] } s t :=
  exec_setV rfl

/-- The byte that the host names is the byte of the step (R140). -/
@[simp] theorem State.rndByte_withRnd (s : State) (b : Byte) : (s.withRnd b).rndByte = b := rfl

/-- Settles O34: RND writes the step's random byte ANDed with NN, and that byte is `b` where the host names `b`. -/
theorem randomByteIsMasked : Obligations.RandomByteIsMasked := by
  intro x nn b s
  have hnamed := exec_rnd x nn (s.withRnd b)
  rw [State.rndByte_withRnd] at hnamed
  obtain ⟨t, hfree⟩ := exec_rnd x nn s
  exact ⟨hnamed, t, s.rndByte, hfree⟩

end Sys2Proof.Machine

/-! Register arithmetic: moves, logic, sums, differences and shifts between registers (44_register_alu R551 to R562). -/

namespace Sys2Proof.Machine

/-! Flags and shifts as the statements write them. -/

theorem flagByte_decide (p : Prop) [Decidable p] : flagByte (decide p) = if p then 1 else 0 := by
  simp [flagByte]

theorem toNat_shiftRight_one (a : Byte) : (a >>> 1).toNat = a.toNat / 2 := by
  rw [BitVec.toNat_ushiftRight, Nat.shiftRight_one]

theorem toNat_shiftLeft_one (a : Byte) : (a <<< 1).toNat = 2 * a.toNat % 256 := by
  rw [BitVec.toNat_shiftLeft, Nat.shiftLeft_eq, Nat.pow_one, Nat.mul_comm]

/-! Instructions with a result and a flag. -/

section

variable {i : Instr} {s : State} {x : Nibble} {y : Option Nibble} {f : Bool} {b : Byte} {n m : Nat}

/-- The cases that R562 does not open: VF_ALIAS = latched, or VF neither the destination nor an operand. -/
theorem State.unsettled_eq_false (h : s.params.vfAlias = .latched ∨ (x ≠ 0xF#4 ∧ y ≠ some 0xF#4)) :
    s.unsettled x y = false := by
  rcases h with hlatched | ⟨hx, hy⟩
  · exact s.unsettled_latched x y hlatched
  · simp [State.unsettled, vf, hx, hy]

/-- VF first, V[X] second (R551): the result stands in V[X] even for X = F, the flag in VF for every other X. -/
theorem exec_writeFlagged (hexec : exec i s = .next (s.writeFlagged x f b)) :
    ∃ t, exec i s = .next t ∧ t.getV x = b ∧ (x ≠ 0xF#4 → t.getV 0xF#4 = flagByte f) ∧ Frame { regs := [x, 0xF#4] } s t := by
  refine ⟨_, hexec, ?_, fun hx => ?_, frame_writeFlagged s x f b⟩
  · simp [State.getV_writeFlagged]
  · simp [State.getV_writeFlagged, vf, hx.symm]

/-- ADD, SUB, SUBN: the result as a number, the flag as the test of a condition (R550). -/
theorem exec_writeFlagged_test {p : Prop} [Decidable p] (hexec : exec i s = .next (s.writeFlagged x (decide p) b))
    (hb : b.toNat = n) :
    ∃ t, exec i s = .next t ∧ (t.getV x).toNat = n ∧ (x ≠ 0xF#4 → t.getV 0xF#4 = if p then 1 else 0) ∧
      Frame { regs := [x, 0xF#4] } s t := by
  obtain ⟨t, ht, hresult, hflag, hframe⟩ := exec_writeFlagged hexec
  exact ⟨t, ht, by rw [hresult, hb], fun hx => (hflag hx).trans (flagByte_decide p), hframe⟩

/-- SHR, SHL: the result and the bit shifted out as numbers (R550). -/
theorem exec_writeFlagged_bit (hexec : exec i s = .next (s.writeFlagged x f b)) (hb : b.toNat = n)
    (hf : (flagByte f).toNat = m) :
    ∃ t, exec i s = .next t ∧ (t.getV x).toNat = n ∧ (x ≠ 0xF#4 → (t.getV 0xF#4).toNat = m) ∧
      Frame { regs := [x, 0xF#4] } s t := by
  obtain ⟨t, ht, hresult, hflag, hframe⟩ := exec_writeFlagged hexec
  exact ⟨t, ht, by rw [hresult, hb], fun hx => by rw [hflag hx, hf], hframe⟩

/-- Where R562 leaves nothing open, the write of SUB, SUBN, SHR and SHL is the ordered one of R551. -/
theorem exec_writeFlagged_of_settled (hexec : exec i s = .next (s.writeAliased x y f b)) (h : s.unsettled x y = false) :
    exec i s = .next (s.writeFlagged x f b) := by
  rw [hexec, s.writeAliased_settled x y f b h]

/-- Settled or open, SUB, SUBN, SHR and SHL complete and write at most V[X] and VF. -/
theorem exec_writeAliased_frame (hexec : exec i s = .next (s.writeAliased x y f b)) :
    ∃ t, exec i s = .next t ∧ Frame { regs := [x, 0xF#4] } s t :=
  ⟨_, hexec, frame_writeAliased s x y f b⟩

/-- With X = F the footprint is VF alone. -/
theorem exec_writeAliased_frame_vf (hexec : exec i s = .next (s.writeAliased 0xF#4 y f b)) :
    ∃ t, exec i s = .next t ∧ Frame { regs := [0xF#4] } s t := by
  obtain ⟨t, ht, hframe⟩ := exec_writeAliased_frame hexec
  exact ⟨t, ht, hframe.mono_regs [0xF#4] (by simp)⟩

end

/-- Settles O36: the ordered write of R551, whose flag is the test of the sum against 255. -/
theorem addSetsCarry : Obligations.AddSetsCarry :=
  fun _ _ _ => exec_writeFlagged_test rfl (toNat_sumOf _ _)

/-- Settles O37: both subtractions are settled here, so each is the ordered write of R551, the flag the strict comparison. -/
theorem subtractsSetNoBorrow : Obligations.SubtractsSetNoBorrow := by
  intro x y s h
  have hsettled : s.unsettled x (some y) = false := State.unsettled_eq_false (by simpa using h)
  exact ⟨exec_writeFlagged_test (exec_writeFlagged_of_settled rfl hsettled) (toNat_diffOf _ _),
    exec_writeFlagged_test (exec_writeFlagged_of_settled rfl hsettled) (toNat_diffOf _ _)⟩

/-- Settles O38: a shift reads no Y, so it is settled for every Y, and its flag is bit 0 or bit 7. -/
theorem shiftsMoveOneBit : Obligations.ShiftsMoveOneBit := by
  intro x y s h
  have hsettled : s.unsettled x none = false := State.unsettled_eq_false (by simpa using h)
  exact ⟨exec_writeFlagged_bit (exec_writeFlagged_of_settled rfl hsettled) (toNat_shiftRight_one _) (toNat_lowBit _),
    exec_writeFlagged_bit (exec_writeFlagged_of_settled rfl hsettled) (toNat_shiftLeft_one _) (toNat_highBit _)⟩

/-- Settles O39: the frame of the aliased write does not depend on the two free values. -/
theorem openAliasCasesComplete : Obligations.OpenAliasCasesComplete := by
  intro x y s _
  refine ⟨fun _ => ⟨exec_writeAliased_frame rfl, exec_writeAliased_frame rfl⟩, ?_⟩
  rintro rfl
  exact ⟨exec_writeAliased_frame_vf rfl, exec_writeAliased_frame_vf rfl⟩

/-- Settles O35: each of the four is one write of V[X]. -/
theorem logicWritesNoFlag : Obligations.LogicWritesNoFlag :=
  fun _ _ _ => ⟨exec_setV rfl, exec_setV rfl, exec_setV rfl, exec_setV rfl⟩

end Sys2Proof.Machine

/-! Keypad and timer instructions: the key skips, the timer moves and the key wait (45_keypad_timer R600 to R606). -/

namespace Sys2Proof.Machine

section

variable {x ign k : Nibble} {s : State}

theorem exec_skp_key (h : (s.getV x).toNat = k.toNat) : exec (.skp x ign) s = .next (s.skipIf (s.key k)) := by
  simp only [exec, execSkp, keyIndex_low _ k h]

theorem exec_sknp_key (h : (s.getV x).toNat = k.toNat) : exec (.sknp x ign) s = .next (s.skipIf (!(s.key k))) := by
  simp only [exec, execSknp, keyIndex_low _ k h]

end

/-- An instruction that skips unless `b` is true (R602). -/
theorem exec_skipIf_not {i : Instr} {s : State} {b : Bool} (hexec : exec i s = .next (s.skipIf (!b))) :
    ∃ t, exec i s = .next t ∧ t.pc = (if b then s.pc else s.pc + 2) ∧ Frame { pc := true } s t := by
  obtain ⟨t, ht, hpc, hframe⟩ := exec_skipIf hexec Iff.rfl
  exact ⟨t, ht, by cases b <;> exact hpc, hframe⟩

/-- The fault of a key index above 15, register by register (R600, R710). -/
theorem State.raise_keyIndexOutOfRange (s : State) (op : Word) (v : Byte) :
    s.raise op (.keyIndexOutOfRange v) = .next { s with
      pc := s.pc - 2, fault := 5, faultPc := s.pc - 2, faultOp := op, faultInfo := BitVec.ofNat 17 v.toNat } := by
  rw [BitVec.ofNat_toNat]
  rfl

/-- Settles O40: a key index in range is the key tested, one above 15 raises the fault of R600 before the skip. -/
theorem keySkipsReadTheKey : Obligations.KeySkipsReadTheKey := by
  refine fun x ign k s => ⟨fun hkey => ?_, fun hhigh => ?_⟩
  · exact ⟨exec_skipIf (exec_skp_key hkey) Iff.rfl, exec_skipIf_not (exec_sknp_key hkey)⟩
  · simp only [exec_skp_high x ign hhigh, exec_sknp_high x ign hhigh, State.raise_keyIndexOutOfRange, and_self]

/-- Settles O42: with no key pressed the one write is PC, else it is V[X], and `lowestKey` is the key that no lower one precedes. -/
theorem keyWaitTakesLowestKey : Obligations.KeyWaitTakesLowestKey := by
  refine fun x s => ⟨fun hnone => ?_, fun k hk hlow => ?_⟩
  · exact ⟨_, exec_ldVxK_none x (s.lowestKey_none hnone), s.rewind_pc, frame_setPc s _⟩
  · obtain ⟨t, ht, hv, hframe⟩ := exec_setV (exec_ldVxK_some x (s.lowestKey_some k hk hlow))
    exact ⟨t, ht, by rw [hv, BitVec.toNat_setWidth_of_le (by decide)], hframe⟩

/-- Settles O41: each move is one write, of V[X], DT or ST. -/
theorem timerMovesCopy : Obligations.TimerMovesCopy :=
  fun _ s => ⟨exec_setV rfl, ⟨_, rfl, rfl, frame_setDt s _⟩, ⟨_, rfl, rfl, frame_setSt s _⟩⟩

end Sys2Proof.Machine

/-! Index and memory instructions: the index register, and the blocks stored and loaded at it (46_index_memory R650 to R654). -/

namespace Sys2Proof.Machine

/-! The index register. -/

theorem exec_setI {i : Instr} {s : State} {a : Word} {n : Nat} (hexec : exec i s = .next (s.setI a)) (ha : a.toNat = n) :
    ∃ t, exec i s = .next t ∧ t.i.toNat = n ∧ Frame { i := true } s t :=
  ⟨_, hexec, ha, frame_setI s a⟩

/-- A byte added to a word, modulo 2^16 (R650). -/
theorem toNat_add_setWidth (a : Word) (b : Byte) : (a + b.setWidth 16).toNat = (a.toNat + b.toNat) % 65536 := by
  rw [BitVec.toNat_add, BitVec.toNat_setWidth_of_le (by decide)]

/-- Settles O43: each is one write of I, of the sum reduced by the word's width or of a glyph address, which needs no reduction. -/
theorem indexArithmetic : Obligations.IndexArithmetic :=
  fun _ _ => ⟨exec_setI rfl (toNat_add_setWidth _ _), exec_setI rfl (toNat_glyphAddr _)⟩

/-! An access to a block at I ends in one of two ways, decided by the range of the block alone (R203, R204, R713). -/

section

variable {i : Instr} {s : State} {n : Nat}

theorem exec_block_inRange (hown : ownFault i s = s.blockFault n) (h : s.InRange n) :
    ∃ t, exec i s = .next t ∧ Frame (footprint i s) s t := by
  rcases s.checkBlock_cases n with ⟨-, hnone, -⟩ | ⟨hout, -⟩
  · rcases endsAs i s with ⟨-, t, ht, hframe, -⟩ | ⟨f, hf, -⟩
    · exact ⟨t, ht, hframe⟩
    · cases hf.symm.trans (hown.trans hnone)
  · exact absurd h hout

/-- The fault of an address out of range, register by register (R203, R710). -/
theorem exec_block_outOfRange (hown : ownFault i s = s.blockFault n) (h : ¬ s.InRange n) :
    exec i s = .next { s with
      pc := s.pc - 2, fault := 4, faultPc := s.pc - 2, faultOp := encode i,
      faultInfo := BitVec.ofNat 17 (max s.i.toNat 0x1000) } := by
  rcases s.checkBlock_cases n with ⟨hin, -⟩ | ⟨-, -, hsome, -⟩
  · exact absurd hin h
  · rcases endsAs i s with ⟨hnone, -⟩ | ⟨f, hf, hraise⟩
    · cases hnone.symm.trans (hown.trans hsome)
    · cases hf.symm.trans (hown.trans hsome)
      exact hraise

theorem State.exists_of_mem_blockTouched {a : Nat} (ha : a ∈ s.blockTouched n) : ∃ k < n, a = (s.i.toNat + k) % 4096 := by
  rcases s.checkBlock_cases n with ⟨-, -, hc⟩ | ⟨-, -, -, hc⟩
  · simpa [State.blockTouched, hc, eq_comm] using ha
  · simp [State.blockTouched, hc] at ha

end

/-! The digits that FX33 stores (R652). -/

@[simp] theorem length_bcdDigits (v : Byte) : (bcdDigits v).length = 3 := rfl

theorem toNat_bcdDigits (v : Byte) : (bcdDigits v).map BitVec.toNat = [v.toNat / 100, v.toNat / 10 % 10, v.toNat % 10] := by
  have hv : v.toNat < 256 := v.isLt
  simp only [bcdDigits, List.map_cons, List.map_nil, BitVec.toNat_ofNat, List.cons.injEq, and_true]
  omega

theorem exec_ldBVx_inRange (x : Nibble) {s : State} (h : s.InRange 3) :
    exec (.ldBVx x) s = .next (s.storeAll
      (((List.range 3).map fun k => (s.i.toNat + k) % 4096).zip (bcdDigits (s.getV x)))) := by
  simp only [exec, execLdBVx, s.checkBlock_ok _ h]

/-- FX33 in range leaves the k-th digit of V[X] at I + k modulo 4096. -/
theorem exec_ldBVx_memByte {x : Nibble} {s t : State} (hs : s.MemOk) (h : s.InRange 3) (ht : exec (.ldBVx x) s = .next t)
    (k : Nat) (hk : k < 3) :
    (t.memByte ((s.i.toNat + k) % 4096)).toNat =
      [(s.getV x).toNat / 100, (s.getV x).toNat / 10 % 10, (s.getV x).toNat % 10][k] := by
  cases ht.symm.trans (exec_ldBVx_inRange x h)
  rw [s.memByte_storeAll_block _ (length_bcdDigits _) (by decide) hs k hk]
  exact (List.getElem_map BitVec.toNat).symm.trans (List.getElem_of_eq (toNat_bcdDigits _) (by simpa using hk))

/-- Settles O44: in range the block store of the three digits, out of range the address check's fault. -/
theorem bcdStoresThreeDigits : Obligations.BcdStoresThreeDigits := by
  refine fun x s hs => ⟨fun h => ?_, exec_block_outOfRange rfl⟩
  obtain ⟨t, ht, hframe⟩ := exec_block_inRange (i := .ldBVx x) rfl h
  have hdigit := exec_ldBVx_memByte hs h ht
  exact ⟨t, ht, hdigit 0 (by decide), hdigit 1 (by decide), hdigit 2 (by decide),
    fun _ => State.exists_of_mem_blockTouched, hframe⟩

/-- Settles O45: in range the block store of V0 to Vx, out of range the address check's fault. -/
theorem storeRegistersAtIndex : Obligations.StoreRegistersAtIndex := by
  refine fun x s hs => ⟨fun h => ?_, exec_block_outOfRange rfl⟩
  obtain ⟨t, ht, hframe⟩ := exec_block_inRange (i := .ldMemVx x) rfl h
  refine ⟨t, ht, exec_ldMemVx_memByte hs h ht, fun a ha => ?_, hframe⟩
  obtain ⟨k, hk, e⟩ := State.exists_of_mem_blockTouched ha
  exact ⟨k, Nat.le_of_lt_succ hk, e⟩

/-! FX65 (R654). -/

theorem exec_ldVxMem_inRange (x : Nibble) {s : State} (h : s.InRange (x.toNat + 1)) :
    exec (.ldVxMem x) s = .next (s.loadAll
      ((blockRegs x).zip ((List.range (x.toNat + 1)).map fun k => (s.i.toNat + k) % 4096))) := by
  simp only [exec, execLdVxMem, s.checkBlock_ok _ h]

/-- FX65 in range leaves the byte at I + k modulo 4096 in V[k], for each k up to X: each register is loaded once. -/
theorem exec_ldVxMem_getV {x : Nibble} {s t : State} (h : s.InRange (x.toNat + 1)) (ht : exec (.ldVxMem x) s = .next t)
    (k : Nibble) (hk : k.toNat ≤ x.toNat) : t.getV k = s.memByte ((s.i.toNat + k.toNat) % 4096) := by
  cases ht.symm.trans (exec_ldVxMem_inRange x h)
  refine s.getV_loadAll_mem _ ?_ k _ ?_
  · rw [List.map_fst_zip (by simp)]
    exact nodup_blockRegs x
  · exact List.mem_iff_getElem.2 ⟨k.toNat, by simp; omega, by simp [getElem_blockRegs]⟩

/-- Settles O46: in range the block load, whose frame holds the registers above X, out of range the address check's fault. -/
theorem loadRegistersFromIndex : Obligations.LoadRegistersFromIndex := by
  refine fun x s => ⟨fun h => ?_, exec_block_outOfRange rfl⟩
  obtain ⟨t, ht, hframe⟩ := exec_block_inRange (i := .ldVxMem x) rfl h
  refine ⟨t, ht, exec_ldVxMem_getV h ht, fun k hk => hframe.getV k fun hmem => ?_, hframe⟩
  exact Nat.not_le.2 hk ((mem_blockRegs x k).1 hmem)

/-- Settles O47: the load reads, at each address, the byte that the store left there. -/
theorem storedRegistersLoadBack : Obligations.StoredRegistersLoadBack := by
  intro x s t u hs hrange ht hmem hparams hi
  have hrange' : u.InRange (x.toNat + 1) := by
    rw [State.InRange, hparams, exec_params ht, hi]
    exact hrange
  obtain ⟨r, hr, -⟩ := exec_block_inRange (i := .ldVxMem x) rfl hrange'
  refine ⟨r, hr, fun k hk => ?_⟩
  calc r.getV k
    _ = u.memByte ((s.i.toNat + k.toNat) % 4096) := hi ▸ exec_ldVxMem_getV hrange' hr k hk
    _ = t.memByte ((s.i.toNat + k.toNat) % 4096) := State.memByte_congr hmem hparams _
    _ = s.getV k := exec_ldMemVx_memByte hs hrange ht k hk

end Sys2Proof.Machine

/-! Faults: the latched one, and exactly which fault a step takes (60_exceptions R700, R710, R712, R713). -/

namespace Sys2Proof.Machine

theorem State.stepResult_faulted {s : State} (h : s.fault ≠ 0) : s.stepResult = .fault s.fault := if_neg h

/-- Settles O11: the first branch of the step, whose result is read off the state it leaves. -/
theorem latchedFaultStopsTheCore : Obligations.LatchedFaultStopsTheCore :=
  fun s h => ⟨s, step_latched h, rfl, State.stepResult_faulted h⟩

section

variable {s u : State} {i : Instr}

theorem State.Runs.faultStatus (h : s.Runs i u) : u.faultStatus = s.faultStatus := h.frame.faultStatus

theorem State.Runs.fault (h : s.Runs i u) : u.fault = s.fault := congrArg Prod.fst h.faultStatus

/-- FAULT_OP is the fetched word: an instruction's encoding is the word it was decoded from. -/
theorem State.Raises.faultOp {op w : Word} {f : Fault} (h : s.Raises op f) (hw : s.fetchWord = .ok w) : op = w := by
  cases h with
  | fetch hfetch => cases hfetch.symm.trans hw
  | decode hfetch hdec => exact Except.ok.inj (hfetch.symm.trans hw)
  | check hfetch hdec hown =>
    cases hfetch.symm.trans hw
    exact encodeInvertsDecode _ _ hdec

/-- A fetch that faults leaves 0 in FAULT_OP, and its fault is the step's (R119). -/
theorem State.Raises.of_fetch_error {op : Word} {f g : Fault} (h : s.Raises op f) (hg : s.fetchWord = .error g) :
    op = 0 ∧ f = g := by
  cases h with
  | fetch hfetch => exact ⟨rfl, Except.error.inj (hfetch.symm.trans hg)⟩
  | decode hfetch | check hfetch => cases hfetch.symm.trans hg

end

/-- Settles O12: of the three outcomes of a step, only the latch over the state before it leaves a fault where there was none. -/
theorem faultEntryDiscardsTheStep : Obligations.FaultEntryDiscardsTheStep := by
  intro s t h0 h ht
  rcases step_cases h with ⟨hs, -⟩ | ⟨-, op, f, hraises, rfl⟩ | ⟨-, i, u, hruns, rfl⟩
  · exact absurd h0 hs
  · exact ⟨f, op, rfl, fun _ => hraises.faultOp, fun _ => hraises.of_fetch_error, State.stepResult_faulted ht⟩
  · exact absurd (hruns.fault.trans h0) ht

/-! The instruction's own check decides how it ends. -/

section

variable {s : State} {i : Instr}

/-- No check depends on PC. -/
theorem ownFault_skip (i : Instr) (s : State) : ownFault i s.skip = ownFault i s := by
  cases i <;> rfl

theorem exec_of_ownFault_some {f : Fault} (h : ownFault i s = some f) : exec i s = s.raise (encode i) f := by
  rcases endsAs i s with ⟨hnone, -⟩ | ⟨g, hg, hexec⟩
  · cases hnone.symm.trans h
  · cases hg.symm.trans h
    exact hexec

theorem exec_of_ownFault_none (h : ownFault i s = none) : ∃ t, exec i s = .next t ∧ Frame (footprint i s) s t := by
  rcases endsAs i s with ⟨-, t, hexec, hframe, -⟩ | ⟨g, hg, -⟩
  · exact ⟨t, hexec, hframe⟩
  · cases h.symm.trans hg

variable {w : Word} (h0 : s.fault = 0) (hfetch : s.fetchWord = .ok w) (hdec : decode w = .ok i)
include h0 hfetch hdec

theorem step_of_ownFault_some {f : Fault} (h : ownFault i s = some f) : step s = .next (s.latch s.pc w f) := by
  rw [step_decode_ok h0 hfetch hdec, exec_of_ownFault_some ((ownFault_skip i s).trans h), State.raise_skip, finishOut,
    State.finish_faulted _ (State.latch_fault_ne _ _ _ _), encodeInvertsDecode w i hdec]

theorem step_of_ownFault_none (h : ownFault i s = none) : ∃ u, s.Runs i u ∧ step s = .next u.timerTick.nextInputs := by
  have hpass : ownFault i s.skip = none := (ownFault_skip i s).trans h
  obtain ⟨u, hexec, hframe⟩ := exec_of_ownFault_none hpass
  have hruns : s.Runs i u := ⟨⟨w, hfetch, hdec⟩, hpass, hexec, hframe⟩
  refine ⟨u, hruns, ?_⟩
  rw [step_decode_ok h0 hfetch hdec, hexec, finishOut, State.finish_clear u (hruns.fault.trans h0)]

end

/-- Settles O13: where the check fails the step latches its fault, where it passes the instruction's frame holds the fault registers. -/
theorem instructionFaultsExactly : Obligations.InstructionFaultsExactly := by
  intro s w i h0 hfetch hdec
  refine ⟨fun f hown => step_of_ownFault_some h0 hfetch hdec hown, fun hown => ?_⟩
  obtain ⟨u, hruns, hstep⟩ := step_of_ownFault_none h0 hfetch hdec hown
  have hstatus := hruns.faultStatus
  simp only [State.faultStatus, Prod.mk.injEq] at hstatus
  obtain ⟨hfault, hpc, hop, hinfo⟩ := hstatus
  exact ⟨_, hstep, hfault.trans h0, hpc, hop, hinfo⟩

end Sys2Proof.Machine

/-! The timers over a step and over a run (60_exceptions R740, R741). -/

namespace Sys2Proof.Machine

section

variable {fp : Footprint} {s t u : State} {i : Instr}

theorem Frame.dt (h : Frame fp s t) : fp.dt = false → t.dt = s.dt := by
  obtain ⟨-, -, -, -, -, hdt, -⟩ := h
  exact hdt

theorem Frame.st (h : Frame fp s t) : fp.st = false → t.st = s.st := by
  obtain ⟨-, -, -, -, -, -, hst, -⟩ := h
  exact hst

/-- Only FX15 names DT as written (R111). -/
theorem footprint_dt (s : State) (h : ∀ x, i ≠ .ldDtVx x) : (footprint i s).dt = false := by
  cases i with
  | ldDtVx x => exact absurd rfl (h x)
  | _ => rfl

/-- Only FX18 names ST as written (R111). -/
theorem footprint_st (s : State) (h : ∀ x, i ≠ .ldStVx x) : (footprint i s).st = false := by
  cases i with
  | ldStVx x => exact absurd rfl (h x)
  | _ => rfl

theorem State.Runs.dt_of_keepsDt (h : s.Runs i u) (hi : ∀ x, i ≠ .ldDtVx x) : u.dt = s.dt :=
  h.frame.dt (footprint_dt _ hi)

theorem State.Runs.st_of_keepsSt (h : s.Runs i u) (hi : ∀ x, i ≠ .ldStVx x) : u.st = s.st :=
  h.frame.st (footprint_st _ hi)

theorem State.Runs.dt_ldDtVx {x : Nibble} (h : s.Runs (.ldDtVx x) u) : u.dt = s.getV x := by
  cases h.execs
  rfl

theorem State.Runs.st_ldStVx {x : Nibble} (h : s.Runs (.ldStVx x) u) : u.st = s.getV x := by
  cases h.execs
  rfl

/-- The end of a step without a fault ticks both timers, whatever the instruction left in them (R740). -/
theorem State.dt_ticked {b : Byte} (h : u.dt = b) : u.timerTick.nextInputs.dt.toNat = b.toNat - 1 :=
  h ▸ toNat_tickByte u.dt

theorem State.st_ticked {b : Byte} (h : u.st = b) : u.timerTick.nextInputs.st.toNat = b.toNat - 1 :=
  h ▸ toNat_tickByte u.st

theorem step_faulted_timers (h : step s = .next t) (ht : t.fault ≠ 0) : t.dt = s.dt ∧ t.st = s.st := by
  rcases step_cases h with ⟨-, rfl⟩ | ⟨-, op, f, -, rfl⟩ | ⟨h0, i, u, hruns, rfl⟩
  · exact ⟨rfl, rfl⟩
  · exact ⟨rfl, rfl⟩
  · exact absurd (hruns.fault.trans h0) ht

end

/-- Settles O15: the tick acts on what the instruction leaves in each timer, V[X] for the one that writes it, else the old value. -/
theorem timersTickEveryStep : Obligations.TimersTickEveryStep := by
  refine fun s t h => ⟨fun ht w i hfetch hdec => ?_, step_faulted_timers h⟩
  obtain ⟨u, hruns, rfl⟩ := step_runs (encodeInvertsDecode w i hdec ▸ hfetch) h ht
  refine ⟨?_, fun hi => State.dt_ticked (hruns.dt_of_keepsDt hi), ?_, fun hi => State.st_ticked (hruns.st_of_keepsSt hi)⟩
  · rintro x rfl
    exact State.dt_ticked hruns.dt_ldDtVx
  · rintro x rfl
    exact State.st_ticked hruns.st_ldStVx

/-- A step that takes no fault and runs an instruction that `p` allows lowers `timer` by one, never below 0. -/
def CountsDown (p : Instr → State → Prop) (timer : State → Byte) : Prop :=
  ∀ s u w i, s.fetchWord = .ok w → decode w = .ok i → p i s → step s = .next u → u.fault = 0 →
    (timer u).toNat = (timer s).toNat - 1

theorem countsDown_dt : CountsDown keepsDt State.dt := by
  intro s u w i hfetch hdec hkeeps hstep hu
  obtain ⟨-, hdt, -⟩ := (timersTickEveryStep s u hstep).1 hu w i hfetch hdec
  exact hdt hkeeps

theorem countsDown_st : CountsDown keepsSt State.st := by
  intro s u w i hfetch hdec hkeeps hstep hu
  obtain ⟨-, -, -, hst⟩ := (timersTickEveryStep s u hstep).1 hu w i hfetch hdec
  exact hst hkeeps

section

variable {p : Instr → State → Prop} {timer : State → Byte} {n : Nat} {s t : State}

theorem CountsDown.toNat_run (hc : CountsDown p timer) (h : RunsQuietly p n s t) :
    (timer t).toNat = (timer s).toNat - n := by
  induction n generalizing s with
  | zero =>
    cases h
    rfl
  | succ n ih =>
    obtain ⟨w, i, u, -, hfetch, hdec, hp, hstep, hu, hrest⟩ := h
    calc (timer t).toNat
      _ = (timer u).toNat - n := ih hrest
      _ = (timer s).toNat - 1 - n := by rw [hc s u w i hfetch hdec hp hstep hu]
      _ = (timer s).toNat - (n + 1) := by omega

/-- The countdown is clamped: from a value of at most `n`, `n` steps reach 0 and stay there (R741). -/
theorem CountsDown.run (hc : CountsDown p timer) (h : RunsQuietly p n s t) :
    (timer t).toNat = (timer s).toNat - n ∧ ((timer s).toNat ≤ n → timer t = 0) := by
  have hrun := hc.toNat_run h
  exact ⟨hrun, fun hn => BitVec.eq_of_toNat_eq (hrun.trans (Nat.sub_eq_zero_of_le hn))⟩

end

/-- Settles O16: both timers count down, each under the instructions that do not write it. -/
theorem timersCountDownAndStay : Obligations.TimersCountDownAndStay :=
  fun _ _ _ => ⟨countsDown_dt.run, countsDown_st.run⟩

end Sys2Proof.Machine

/-! What the host sees, and what its actions answer (10_state R140, R141, 60_exceptions R761). -/

namespace Sys2Proof.Machine

/-- The display holds the 2048 pixels and nothing else (R114). -/
theorem State.display_eq_iff (s t : State) :
    s.display = t.display ↔ ∀ x y, x < 64 → y < 32 → s.pixel x y = t.pixel x y := by
  obtain ⟨hslen, hs⟩ := displayIsRowMajor s
  obtain ⟨htlen, ht⟩ := displayIsRowMajor t
  constructor
  · intro h x y hx hy
    exact Option.some.inj ((hs x y hx hy).symm.trans ((congrArg (·[y * 64 + x]?) h).trans (ht x y hx hy)))
  · intro h
    refine List.ext_getElem? fun k => ?_
    by_cases hk : k < 2048
    · have hx : k % 64 < 64 := Nat.mod_lt _ (by decide)
      have hy : k / 64 < 32 := by omega
      have hpos : k / 64 * 64 + k % 64 = k := Nat.div_add_mod' k 64
      rw [← hpos, hs _ _ hx hy, ht _ _ hx hy, h _ _ hx hy]
    · rw [List.getElem?_eq_none (by omega), List.getElem?_eq_none (by omega)]

/-- The keypad holds the 16 keys and nothing else (R116). -/
theorem State.keys_eq_iff (s t : State) : s.keys = t.keys ↔ ∀ k, s.key k = t.key k := by
  constructor
  · intro h k
    simp only [State.key, h]
  · intro h
    refine Vector.ext fun k hk => ?_
    simpa [State.key, Nat.mod_eq_of_lt hk] using h (BitVec.ofNat 4 k)

/-- Settles O56: the view is its four surfaces, of which the display and the keypad are their pixels and their keys. -/
theorem hostSeesExactlyTheSurfaces : Obligations.HostSeesExactlyTheSurfaces := by
  intro s t
  simp only [State.hostView, HostView.mk.injEq, State.display_eq_iff, State.keys_eq_iff, State.soundTimer,
    State.faultStatus, Prod.mk.injEq]

/-- A load answers by the size of its bytes alone (R803). -/
theorem State.load_result (s : State) (bytes : List Byte) :
    (s.load bytes).1 = if bytes.length ≤ 3584 then .ok else .programTooLarge := by
  by_cases h : bytes.length ≤ 3584
  · have hfits : ¬ bytes.length > maxProg := Nat.not_lt.2 h
    rw [State.load, if_neg hfits, if_pos h]
  · have hlarge : bytes.length > maxProg := Nat.not_le.1 h
    rw [State.load, if_pos hlarge, if_neg h]

/-- Settles O57: reset, load and the key write always answer; a step completes, and its answer is read off the FAULT it leaves. -/
theorem hostActionsAnswerWhatTheSurfacesShow : Obligations.HostActionsAnswerWhatTheSurfacesShow := by
  intro a s
  cases a with
  | reset | setKey => exact ⟨_, _, rfl, fun _ => rfl, fun _ _ _ => rfl, nofun, nofun⟩
  | load bytes =>
    refine ⟨_, _, rfl, nofun, nofun, ?_, nofun⟩
    rintro _ ⟨⟩
    rw [State.load_result]
  | step rnd =>
    obtain ⟨t, ht⟩ := step_completes (s.withRnd rnd)
    exact ⟨_, t, hostAct_step s rnd t ht, nofun, nofun, nofun, fun _ _ => rfl⟩

end Sys2Proof.Machine

/-! Reset and load (70_reset_and_hazards R800 to R805), and the invariant under the host's transactions (10_state R140 to R142). -/

namespace Sys2Proof.Machine

/-! The copy of a program into memory (R803). -/

/-- The bytes, each with the address that `State.copyFrom` stores it to. -/
def copiedCells (a : Nat) (bytes : List Byte) : List (Nat × Byte) :=
  ((List.range bytes.length).map (a + ·)).zip bytes

theorem map_fst_copiedCells (a : Nat) (bytes : List Byte) :
    (copiedCells a bytes).map Prod.fst = (List.range bytes.length).map (a + ·) :=
  List.map_fst_zip (by simp)

theorem mem_map_fst_copiedCells {a b : Nat} {bytes : List Byte} :
    b ∈ (copiedCells a bytes).map Prod.fst ↔ a ≤ b ∧ b < a + bytes.length := by
  rw [map_fst_copiedCells, List.mem_map]
  constructor
  · rintro ⟨k, hk, rfl⟩
    have hlt : k < bytes.length := List.mem_range.1 hk
    omega
  · rintro ⟨hlow, hhigh⟩
    exact ⟨b - a, List.mem_range.2 (by omega), by omega⟩

theorem nodup_map_fst_copiedCells (a : Nat) (bytes : List Byte) : ((copiedCells a bytes).map Prod.fst).Nodup := by
  rw [map_fst_copiedCells]
  exact List.nodup_range.map fun _ _ => Nat.add_left_cancel

theorem getElem_mem_copiedCells (a : Nat) {bytes : List Byte} {k : Nat} (hk : k < bytes.length) :
    (a + k, bytes[k]) ∈ copiedCells a bytes :=
  List.mem_iff_getElem.2 ⟨k, by simpa [copiedCells] using hk, by simp [copiedCells]⟩

/-- No copied cell lies above memory when the bytes fit. -/
theorem lt_of_mem_map_fst_copiedCells {a : Nat} {bytes : List Byte} (hfit : a + bytes.length ≤ 4096) :
    ∀ b ∈ (copiedCells a bytes).map Prod.fst, b < 4096 :=
  fun _ hb => Nat.lt_of_lt_of_le (mem_map_fst_copiedCells.1 hb).2 hfit

section

variable {s : State} {a : Nat} {bytes : List Byte}

theorem State.copyFrom_eq_storeAll : s.copyFrom a bytes = s.storeAll (copiedCells a bytes) := rfl

theorem State.copyFrom_nil : s.copyFrom a [] = s := rfl

/-- A copy changes only memory. -/
theorem State.copyFrom_eq : ∃ m, s.copyFrom a bytes = { s with mem := m } := s.storeAll_eq _

theorem State.memByte_copyFrom_other {b : Nat} (h : b < a ∨ a + bytes.length ≤ b) :
    (s.copyFrom a bytes).memByte b = s.memByte b := by
  rw [State.copyFrom_eq_storeAll]
  refine s.memByte_storeAll_other _ b fun hb => ?_
  obtain ⟨hlow, hhigh⟩ := mem_map_fst_copiedCells.1 hb
  omega

theorem State.memByte_copyFrom_copied (hs : s.MemOk) (hfit : a + bytes.length ≤ 4096) {k : Nat} (hk : k < bytes.length) :
    (s.copyFrom a bytes).memByte (a + k) = bytes[k] :=
  s.memByte_storeAll_mem _ (nodup_map_fst_copiedCells a bytes) (lt_of_mem_map_fst_copiedCells hfit) hs _ _
    (getElem_mem_copiedCells a hk)

theorem State.memOk_copyFrom (hs : s.MemOk) (hfit : a + bytes.length ≤ 4096) : (s.copyFrom a bytes).MemOk :=
  s.storeAll_wf _ (lt_of_mem_map_fst_copiedCells hfit) hs

/-- No part of the invariant but the canonical form reads memory. -/
theorem State.Inv.copyFrom (hs : s.Inv) (hfit : a + bytes.length ≤ 4096) : (s.copyFrom a bytes).Inv := by
  obtain ⟨hmem, hpc, hfault⟩ := hs
  have hcopied : (s.copyFrom a bytes).MemOk := State.memOk_copyFrom hmem hfit
  obtain ⟨m, hm⟩ : ∃ m, s.copyFrom a bytes = { s with mem := m } := State.copyFrom_eq
  rw [hm] at hcopied ⊢
  exact ⟨hcopied, hpc, hfault⟩

end

/-! Load by its two cases (R803, R804). -/

theorem State.load_ok (s : State) {bytes : List Byte} (h : bytes.length ≤ 3584) :
    s.load bytes = (.ok, s.doReset.copyFrom 0x200 bytes) :=
  if_neg (Nat.not_lt.2 h)

theorem State.load_tooLarge (s : State) {bytes : List Byte} (h : 3584 < bytes.length) :
    s.load bytes = (.programTooLarge, if s.params.loadFailResets then s.doReset else s) :=
  if_pos h

/-! The invariant after a reset or a load. -/

/-- Reset lists no cell of memory, whatever the font. -/
theorem State.memOk_doReset (s : State) : s.doReset.MemOk := rfl

/-- PC and the stack are those of `State.reset`, whose bounds hold under either ADDR_MODE. -/
theorem State.inv_doReset (s : State) : s.doReset.Inv := by
  obtain ⟨-, hpc, -⟩ := resetMeetsInvariant
  exact ⟨s.memOk_doReset, fun _ => hpc rfl, State.faultOk_of_clear rfl⟩

theorem State.inv_load_ok (s : State) {bytes : List Byte} (h : bytes.length ≤ 3584) : (s.load bytes).2.Inv := by
  rw [s.load_ok h]
  exact s.inv_doReset.copyFrom (by omega)

/-- A load leaves the reset state with the program, the reset state, or the state as it was. -/
theorem State.Inv.load {s : State} (hs : s.Inv) (bytes : List Byte) : (s.load bytes).2.Inv := by
  rcases Nat.lt_or_ge 3584 bytes.length with hlarge | hfits
  · rw [s.load_tooLarge hlarge]
    by_cases hreset : s.params.loadFailResets
    · rw [if_pos hreset]
      exact s.inv_doReset
    · rw [if_neg hreset]
      exact hs
  · exact s.inv_load_ok hfits

/-- Settles O19: the copy keeps memory canonical, and no part of the invariant reads a key or the named byte. -/
theorem hostKeepsInvariant : Obligations.HostKeepsInvariant :=
  fun s bytes _ _ _ => ⟨s.inv_doReset, s.inv_load_ok, fun hs => ⟨hs.load bytes, hs, hs⟩⟩

/-- Settles O51: the copy changes exactly the bytes it stores, and memory only. -/
theorem loadCopiesTheProgram : Obligations.LoadCopiesTheProgram := by
  intro s bytes h
  refine ⟨_, s.load_ok h, fun k hk => ?_, fun a ha => State.memByte_copyFrom_other ha, ?_⟩
  · exact State.memByte_copyFrom_copied s.memOk_doReset (by omega) hk
  · obtain ⟨m, hm⟩ : ∃ m, s.doReset.copyFrom 0x200 bytes = { s.doReset with mem := m } := State.copyFrom_eq
    rw [hm]

/-- Settles O52: the reset state with no byte copied over it. -/
theorem loadNothingIsReset : Obligations.LoadNothingIsReset := by
  intro s
  rw [s.load_ok (Nat.zero_le _), State.copyFrom_nil]

/-- Settles O53: the size is checked before the reset, which LOAD_FAIL_RESETS alone decides. -/
theorem loadTooLargeChangesNothing : Obligations.LoadTooLargeChangesNothing := by
  intro s bytes h
  rw [s.load_tooLarge h]
  exact ⟨rfl, fun hkeep => by simp [hkeep], fun hreset => by simp [hreset]⟩

end Sys2Proof.Machine
